-- ==== Sys2Proof/Word.lean ====
section
/-! DEFINITION. The word types of the block and their plainest arithmetic (00_scope.md R12). -/

namespace Sys2Proof

/-- A byte: 8 bits, bit 0 the least significant (R12). -/
abbrev Byte := BitVec 8

/-- One host operation word `op_word[63:0]` (10_state.md R29, 30_encoding.md R55). -/
abbrev OpWord := BitVec 64

/-- The range of a signed number of `n` bits, `n` at least 1 (30_encoding.md R61). -/
def fitsSigned (n : Nat) (v : Int) : Bool := decide (-2 ^ (n - 1) ≤ v) && decide (v < 2 ^ (n - 1))

end Sys2Proof
end

