-- ==== Sys2Proof/Syntax.lean ====
section
/-! DEFINITION. The instructions: one constructor for each row of spec/opcode_table.json (14 host operations,
26 wire commands), the two shapes an instruction word has, the ways decoding can fail, and the
pseudo-operations of 30_encoding.md R68. -/

namespace Sys2Proof

/-- The colour of a run: clear, set or toggle (40_framebuffer.md R100; codes 0, 1, 2 of 30_encoding.md R62). -/
inductive Colour where
  | black
  | white
  | inverse
deriving DecidableEq, Repr

/-- Quarter turns, the four values of ROT (10_state.md R17). -/
inductive Rotation where
  | deg0
  | deg90
  | deg180
  | deg270
deriving DecidableEq, Repr

/-- The direction of a run: `FB_HRUN` or `FB_VRUN` (40_framebuffer.md R100). -/
inductive RunKind where
  | horizontal
  | vertical
deriving DecidableEq, Repr

/-- The instructions. Operands of format D are the assembled integers `OP.x`, `OP.y`, `OP.len` (30_encoding.md
R61); operands of a wire command are its parameter bytes in the order of spec/opcode_table.json. -/
inductive Instr where
  /-- HRUN, format D, opcode 0x01 (42_rotation.md R121). -/
  | hrun (c : Colour) (len y x : Int)
  /-- VRUN, format D, opcode 0x02 (R122). -/
  | vrun (c : Colour) (len y x : Int)
  /-- SETROT, format R, opcode 0x03 (R123). -/
  | setrot (q : Rotation)
  /-- STARTUP, format N, opcode 0x10 (43_sequencer.md R134). -/
  | startup
  /-- DISPLAY, format N, opcode 0x11 (R139). -/
  | display
  /-- SHUTDOWN, format N, opcode 0x12 (R140). -/
  | shutdown
  /-- ENDISP, format B, opcode 0x13 (R141). -/
  | endisp (b : Bool)
  /-- INVDISP, format B, opcode 0x14 (R142). -/
  | invdisp (b : Bool)
  /-- SCRL, format S, opcode 0x20 (44_scroll.md R159). -/
  | scrl (stop start : Byte)
  /-- SCRR, format S, opcode 0x21 (R160). -/
  | scrr (stop start : Byte)
  /-- SCRDL, format S, opcode 0x22 (R161). -/
  | scrdl (stop start : Byte)
  /-- SCRDR, format S, opcode 0x23 (R162). -/
  | scrdr (stop start : Byte)
  /-- SCRUP, format S, opcode 0x24 (R163). -/
  | scrup (stop start : Byte)
  /-- SCRSTOP, format N, opcode 0x25 (R164). -/
  | scrstop
  /-- display-off (30_encoding.md R74). -/
  | wDisplayOff
  /-- display-on (R75). -/
  | wDisplayOn
  /-- clock-divider (R76). -/
  | wSetClockDiv (a : Byte)
  /-- multiplex-ratio (R77). -/
  | wSetMultiplex (a : Byte)
  /-- memory-addressing-mode (R78). -/
  | wMemoryMode (a : Byte)
  /-- segment-remap (R79). -/
  | wSegRemap
  /-- scan-direction (R80). -/
  | wComScanDec
  /-- VCOM deselect level (R81). -/
  | wSetVcomDeselect (a : Byte)
  /-- charge-pump (R82). -/
  | wChargePump (a : Byte)
  /-- display offset (R83). -/
  | wSetDisplayOffset (a : Byte)
  /-- start line, the line in the low six bits of the code byte (R84). -/
  | wSetStartLine (l : BitVec 6)
  /-- COM-pin configuration (R85). -/
  | wSetComPins (a : Byte)
  /-- contrast (R86). -/
  | wSetContrast (a : Byte)
  /-- precharge timing (R87). -/
  | wSetPrecharge (a : Byte)
  /-- display-all-on-resume (R88). -/
  | wDisplayAllOnResume
  /-- normal-display (R89). -/
  | wNormalDisplay
  /-- invert-display (R90). -/
  | wInvertDisplay
  /-- deactivate-scroll (R91). -/
  | wDeactivateScroll
  /-- activate-scroll (R92). -/
  | wActivateScroll
  /-- set-vertical-scroll-area: fixed rows, scrolling rows (R93). -/
  | wSetVerticalScrollArea (a b : Byte)
  /-- right horizontal scroll: hinc, start, frame rate, stop, vinc, column start, column end (R94, R158). -/
  | wRightScroll (a b c d e f g : Byte)
  /-- left horizontal scroll (R95). -/
  | wLeftScroll (a b c d e f g : Byte)
  /-- vertical and right horizontal scroll (R96). -/
  | wVertRightScroll (a b c d e f g : Byte)
  /-- vertical and left horizontal scroll (R97). -/
  | wVertLeftScroll (a b c d e f g : Byte)
  /-- column-address-range: start column, end column (R98). -/
  | wColumnAddr (a b : Byte)
  /-- page-address-range: start page, end page (R99). -/
  | wPageAddr (a b : Byte)
deriving DecidableEq, Repr

/-- The two shapes of an instruction word: a host operation word, one 64-bit parallel value with no byte order
(20_memory.md R40, 30_encoding.md R55), or the bytes of a wire command in the order they are sent (R71). -/
inductive InstrWord where
  | host (w : OpWord)
  | wire (bytes : List Byte)
deriving DecidableEq, Repr

/-- Why a word is no instruction. The first three are the illegal host words of 30_encoding.md R64 (a), (b), (c). -/
inductive DecodeError where
  | unknownOpcode
  | reservedBits
  | reservedColour
  | unknownWireCode
  | truncatedWire
  | trailingBytes
deriving DecidableEq, Repr

/-- The pseudo-operations of the assembler (30_encoding.md R68). -/
inductive Pseudo where
  | pixel (x y : Int) (c : Colour)
  | fillRect (x y w h : Int) (c : Colour)
  | rot (q : Rotation)
  | dispOn
  | dispOff
deriving DecidableEq, Repr

end Sys2Proof
end

