-- ==== Sys2Proof/Config.lean ====
section
/-! DEFINITION. The elaboration-time parameters of the block and their defaults (00_scope.md R5 to R8). A
parameter is no state (10_state.md R28); State carries the record so that claims hold for every choice of it
(log entry 1). -/

namespace Sys2Proof

/-- Panel geometry and power source, with the legal range of 00_scope.md R6 carried as a fact: a block with any
other geometry is not built (R191; log entry 3). Defaults D7. -/
structure Geometry where
  /-- WIDTH, columns. -/
  width : Nat := 128
  /-- HEIGHT, rows. -/
  height : Nat := 64
  /-- EXTVCC: true is an external power source, false the internal charge pump. -/
  extvcc : Bool := false
  width_legal : 1 ≤ width ∧ width ≤ 128 := by decide
  height_legal : 1 ≤ height ∧ height ≤ 64 := by decide
deriving DecidableEq, Repr

/-- The wire code record WC, 30_encoding.md R73. PRESUMED defaults (general knowledge of the controller family,
D20; log entry 18) but for `chargePumpInternal`, which DOC0 prints. -/
structure WireCodes where
  displayOff : Byte := 0xAE
  displayOn : Byte := 0xAF
  setClockDiv : Byte := 0xD5
  clockDivValue : Byte := 0x80
  setMultiplex : Byte := 0xA8
  memoryMode : Byte := 0x20
  memoryModeValue : Byte := 0x00
  segRemap : Byte := 0xA1
  comScanDec : Byte := 0xC8
  setVcomDeselect : Byte := 0xDB
  vcomDeselectValue : Byte := 0x40
  chargePump : Byte := 0x8D
  chargePumpInternal : Byte := 0x14
  chargePumpExternal : Byte := 0x10
  setDisplayOffset : Byte := 0xD3
  setStartLine : Byte := 0x40
  setComPins : Byte := 0xDA
  setContrast : Byte := 0x81
  setPrecharge : Byte := 0xD9
  prechargeInternal : Byte := 0xF1
  prechargeExternal : Byte := 0x22
  displayAllOnResume : Byte := 0xA4
  normalDisplay : Byte := 0xA6
  invertDisplay : Byte := 0xA7
  deactivateScroll : Byte := 0x2E
  activateScroll : Byte := 0x2F
  setVerticalScrollArea : Byte := 0xA3
  rightScroll : Byte := 0x26
  leftScroll : Byte := 0x27
  vertRightScroll : Byte := 0x29
  vertLeftScroll : Byte := 0x2A
  columnAddr : Byte := 0x21
  pageAddr : Byte := 0x22
deriving DecidableEq, Repr

/-- The default code record. -/
def WireCodes.default : WireCodes := {}

/-- The code bytes a wire command begins with, but for the start-line range. -/
def WireCodes.codes (wc : WireCodes) : List Byte :=
  [wc.displayOff, wc.displayOn, wc.setClockDiv, wc.setMultiplex, wc.memoryMode, wc.segRemap, wc.comScanDec,
   wc.setVcomDeselect, wc.chargePump, wc.setDisplayOffset, wc.setComPins, wc.setContrast, wc.setPrecharge,
   wc.displayAllOnResume, wc.normalDisplay, wc.invertDisplay, wc.deactivateScroll, wc.activateScroll,
   wc.setVerticalScrollArea, wc.rightScroll, wc.leftScroll, wc.vertRightScroll, wc.vertLeftScroll,
   wc.columnAddr, wc.pageAddr]

/-- The codes tell the commands apart: no two are equal, none lies in the start-line range, and the start-line
base leaves its low six bits free (30_encoding.md R84). -/
abbrev WireCodes.Decodable (wc : WireCodes) : Prop :=
  wc.codes.Nodup ∧ (∀ c ∈ wc.codes, c &&& 0xC0#8 ≠ wc.setStartLine &&& 0xC0#8) ∧
    wc.setStartLine &&& 0x3F#8 = 0#8

/-- The two bytes of a cell of PANEL_TABLE (43_sequencer.md R133). -/
structure PanelCell where
  compins : Byte
  contrast : Byte
deriving DecidableEq, Repr

/-- The cells of PANEL_TABLE that are parameters, and the two bytes of 43_sequencer.md R132. DOC0's contrast bytes
for 128 x 64 on internal power and for 128 x 32 are fixed and no fields (conflict C4): `PanelTable.lookup`. PRESUMED
defaults, the third size among them (D21; log entry 19). -/
structure PanelTable where
  /-- 128 x 64, internal power. -/
  compins64Internal : Byte := 0x12
  /-- 128 x 64, external power. -/
  cell64External : PanelCell := ⟨0x12, 0x9F⟩
  /-- 128 x 32, internal power. -/
  compins32Internal : Byte := 0x02
  /-- 128 x 32, external power. -/
  compins32External : Byte := 0x02
  /-- The third size, WIDTH and HEIGHT, which DOC0 does not name. -/
  third : Nat × Nat := (96, 16)
  thirdInternal : PanelCell := ⟨0x02, 0xAF⟩
  thirdExternal : PanelCell := ⟨0x02, 0x10⟩
  /-- Any other size. -/
  other : PanelCell := ⟨0x02, 0x8F⟩
  offset : Byte := 0x00
  startline : BitVec 6 := 0
deriving DecidableEq, Repr

/-- One primitive call of SPLASH, in physical coordinates (43_sequencer.md R136). -/
structure PrimCall where
  kind : RunKind
  x : Int
  y : Int
  length : Int
  colour : Colour
deriving DecidableEq, Repr

/-- All the parameters of 00_scope.md R5 and R8, each with its default. -/
structure Params where
  geometry : Geometry := {}
  /-- COORD_W, the width in bits of the operand latches and of the DW registers (10_state.md R15, R20; D5). DEDUCED at
  least 16: the latches hold every value of `sext_16` (30_encoding.md R61), and no result depends on a register's width
  (45_operation_classes.md R213; log entry 2). -/
  coordW : Nat := 16
  coordW_legal : 16 ≤ coordW := by decide
  wc : WireCodes := {}
  panelTable : PanelTable := {}
  /-- FB_RESET, byte i at position i; a byte the list does not reach is 0x00 (D10; log entry 15). -/
  fbReset : List Byte := []
  /-- SPLASH (D19; log entry 21). -/
  splash : List PrimCall := []
  /-- SCROLL_FRAME_RATE (D22; log entry 20). -/
  scrollFrameRate : Byte := 0x00
  /-- SCROLL_VINC (D22; log entry 20). 00_scope.md R8 and 44_scroll.md R157 call it non-zero, and no rule says whether
  a block with 0 is refused: DESIGN CHOICE any byte is admitted, 0 among them (log entry 20). -/
  scrollVinc : Byte := 0x01
  /-- OP_SCROLL_UP, by default `WC.VERT_RIGHT_SCROLL` (D22; log entry 20). Any byte is admitted: what the panel takes when
  it is no directional code is log entry 33. -/
  opScrollUp : Byte := wc.vertRightScroll
deriving DecidableEq, Repr

/-- The block of the spec's defaults: 128 x 64, internal power. -/
def Params.default : Params := {}

end Sys2Proof
end

