-- ==== Sys2Proof/Machine/State.lean ====
section
/-! DEFINITION. The state of the block (10_state.md R13 to R34) with its inputs, its outputs and the ghost of the
panel, the reasons a step can stop, and the state after reset. -/

namespace Sys2Proof.Machine

/-- A byte memory: (address, byte) cells in one canonical form, addresses strictly rising. -/
abbrev Memory := List Host.Cell

/-- The dirty window DW, an inclusive box in physical coordinates (10_state.md R15). Signed registers, held as
integers (log entry 2). -/
structure Window where
  x1 : Int
  y1 : Int
  x2 : Int
  y2 : Int
deriving DecidableEq, Repr

/-- The lifecycle LC (10_state.md R18). -/
inductive Lifecycle where
  | uninitialized
  | starting
  | active
  | shuttingDown
  | stopped
deriving DecidableEq, Repr

/-- The result codes of 60_exceptions.md R170. -/
inductive ResultCode where
  | ok
  | eUsage
  | eTransport
  | eIllegal
deriving DecidableEq, Repr

/-- PCFG (10_state.md R19, R24): five byte registers and the six-bit start line (log entry 14). -/
structure PanelConfig where
  mux : Byte
  compins : Byte
  contrast : Byte
  chargepump : Byte
  offset : Byte
  startline : BitVec 6
deriving DecidableEq, Repr

/-- SEQ (10_state.md R21): the index of the next transaction of the operation, and the page counter of FLUSH. -/
structure SeqPos where
  step : Nat
  page : Nat
deriving DecidableEq, Repr

/-- SEQ idle (R21). -/
def SeqPos.idle : SeqPos := ⟨0, 0⟩

/-- A bus transaction (10_state.md R31). -/
inductive Txn where
  | cmd1 (b : Byte)
  | cmdseq (bs : List Byte)
  | data (ds : List Byte)
  | release
deriving DecidableEq, Repr

/-- An answered transaction of the trace, tagged ok or fail (00_scope.md R10). -/
structure TxnRecord where
  txn : Txn
  ok : Bool
deriving DecidableEq, Repr

/-- What the transport does with a transaction: it answers `ok` or `fail` (60_exceptions.md R176), or never
answers (70_reset_and_hazards.md R207). -/
inductive Answer where
  | ok
  | fail
  | never
deriving DecidableEq, Repr

/-- The transport's answers to come, an input of the block (00_scope.md R9): those of `script` in order, then
`after` for ever (log entry 4). -/
structure Transport where
  script : List Answer
  after : Answer
deriving DecidableEq, Repr

/-- What is presented to the block at an operation boundary: an instruction word, or the reset line
(10_state.md R29, R32; log entries 7, 8, 23). -/
inductive Input where
  | word (w : InstrWord)
  | rst
deriving DecidableEq, Repr

/-- The ghost of the panel (20_memory.md R46, 70_reset_and_hazards.md R197): what is known of the panel from the
transactions answered. `none`, and an unlisted cell of `gddram`, means not determined, never a value (log
entry 10). No rule of the block reads it (00_scope.md R2). -/
structure Panel where
  /-- The determined bytes of GDDRAM, cell `page * 256 + column`. -/
  gddram : Memory
  pageRange : Option (Byte × Byte)
  colRange : Option (Byte × Byte)
  /-- The write pointer, (page, column). -/
  pointer : Option (Byte × Byte)
  memoryMode : Option Byte
  display : Option Bool
  inverted : Option Bool
  scrolling : Option Bool
  allOnResumed : Option Bool
  /-- The remap selection, the low bit of the code (30_encoding.md R79). -/
  segRemapped : Option Bool
  /-- The code byte of the last scan-direction command (30_encoding.md R80). -/
  comScan : Option Byte
  clockDiv : Option Byte
  multiplex : Option Byte
  vcomDeselect : Option Byte
  chargePump : Option Byte
  displayOffset : Option Byte
  startLine : Option (BitVec 6)
  comPins : Option Byte
  contrast : Option Byte
  precharge : Option Byte
  verticalArea : Option (Byte × Byte)
  /-- The last directional scroll command, code and seven parameters. -/
  scrollSetup : Option (List Byte)
deriving DecidableEq, Repr

/-- Nothing known of the panel: what a reset of the block leaves open (70_reset_and_hazards.md R209, U20). -/
def Panel.unknown : Panel :=
  ⟨[], none, none, none, none, none, none, none, none, none, none, none, none, none, none, none, none, none,
   none, none, none, none⟩

/-- The state. `fb` to `latch` are the block's own; `cfg` its constants; `inputs` and `transport` what the
outside will do; `trace` and `results` what it has seen; `panel` a ghost. -/
structure State where
  /-- Elaboration-time parameters (00_scope.md R5, R8; log entry 1). -/
  cfg : Params
  /-- FB (R14). -/
  fb : Memory
  /-- DW (R15). -/
  dw : Window
  /-- ROT (R17). -/
  rot : Rotation
  /-- LC (R18). -/
  lc : Lifecycle
  /-- PCFG, `none` where it is unwritten (R33, R34; log entry 13). -/
  pcfg : Option PanelConfig
  /-- SEQ (R21). -/
  seq : SeqPos
  /-- op_ready (R29). -/
  opReady : Bool
  /-- res_valid and res_code (R30): `none` is res_valid 0. -/
  res : Option ResultCode
  /-- txn_valid and the transaction on the bus port (R31): `none` is txn_valid 0. -/
  bus : Option Txn
  /-- The operand latches OP.* (R20): the operation in progress. -/
  latch : Option Instr
  /-- What the host and the reset line will present, oldest first. -/
  inputs : List Input
  /-- The answers to come. -/
  transport : Transport
  /-- The trace of answered transactions, oldest first (00_scope.md R11). -/
  trace : List TxnRecord
  /-- The result codes delivered, oldest first (R11). -/
  results : List ResultCode
  /-- The ghost panel. -/
  panel : Panel
deriving DecidableEq, Repr

/-- Why the machine stops with a fault. -/
inductive Fault where
  /-- Raised by DISPLAY where the dirty window is neither empty nor inside the buffer, so that FLUSH would read
  an index outside FB (20_memory.md R37, R44: never generated). Safe; log entry 22. -/
  | windowOutOfRange
  /-- Raised by a step of a block that waits for an answer the transport never gives: the hang of
  70_reset_and_hazards.md R207. Safe; log entry 5. -/
  | transportNeverAnswers
deriving DecidableEq, Repr

/-- Why the machine refuses. -/
inductive Refusal where
  /-- Raised by an arm of exec whose instruction has no meaning yet. Safe. -/
  | notModelled (mnemonic : String)
  /-- Raised by a step offered bytes as a wire command that are none (30_encoding.md R70). Safe; log entry 28. -/
  | notAWireCommand
  /-- Raised when a block is constructed with a geometry outside 00_scope.md R6 (60_exceptions.md R191). Safe;
  log entry 3. -/
  | malformedGeometry
deriving DecidableEq, Repr

/-- The reset values of 10_state.md R33 for a block with the parameters `p`. -/
def State.resetWith (p : Params) : State where
  cfg := p
  fb := []
  dw := ⟨p.geometry.width, p.geometry.height, -1, -1⟩
  rot := .deg0
  lc := .uninitialized
  pcfg := none
  seq := .idle
  opReady := true
  res := none
  bus := none
  latch := none
  inputs := []
  transport := ⟨[], .ok⟩
  trace := []
  results := []
  panel := .unknown

/-- The machine right after reset, with the default parameters. -/
def State.reset : State := State.resetWith Params.default

end Sys2Proof.Machine
end

