-- ==== Sys2Proof/Machine/Flags.lean ====
section
/-! DEFINITION. The block has no flags (10_state.md R23): the one status of an operation is its result code, and
what decides it before any transaction is the lifecycle (60_exceptions.md R170, R178, R181). Here are the codes
of the coded registers and ports, the lifecycle table and the emptiness comparator. -/

namespace Sys2Proof.Machine

/-- res_code[1:0] (60_exceptions.md R170). -/
def ResultCode.code : ResultCode → BitVec 2
  | .ok => 0
  | .eUsage => 1
  | .eTransport => 2
  | .eIllegal => 3

/-- LC in its three bits (10_state.md R18). -/
def Lifecycle.code : Lifecycle → BitVec 3
  | .uninitialized => 0
  | .starting => 1
  | .active => 2
  | .shuttingDown => 3
  | .stopped => 4

/-- txn_kind[1:0] (10_state.md R31). -/
def Txn.kind : Txn → BitVec 2
  | .cmd1 _ => 0
  | .cmdseq _ => 1
  | .data _ => 2
  | .release => 3

/-- The payload of a transaction, in list order (R31). -/
def Txn.payload : Txn → List Byte
  | .cmd1 b => [b]
  | .cmdseq bs => bs
  | .data ds => ds
  | .release => []

/-- txn_len[10:0] (R31). -/
def Txn.len (t : Txn) : BitVec 11 := BitVec.ofNat 11 t.payload.length

/-- The lifecycle state an operation needs (60_exceptions.md R181); `none` where every state will do. A wire
command on its own has no requirement of its own (log entry 8). -/
def requires (i : Instr) : Option Lifecycle :=
  match i with
  | .startup => some .uninitialized
  | .hrun _ _ _ _ | .vrun _ _ _ _ | .display | .shutdown | .endisp _ | .invdisp _ => some .active
  | .scrl _ _ | .scrr _ _ | .scrdl _ _ | .scrdr _ _ | .scrup _ _ | .scrstop => some .active
  | .setrot _ => none
  | .wDisplayOff | .wDisplayOn | .wSetClockDiv _ | .wSetMultiplex _ | .wMemoryMode _ => none
  | .wSegRemap | .wComScanDec | .wSetVcomDeselect _ | .wChargePump _ => none
  | .wSetDisplayOffset _ | .wSetStartLine _ | .wSetComPins _ | .wSetContrast _ => none
  | .wSetPrecharge _ | .wDisplayAllOnResume | .wNormalDisplay | .wInvertDisplay => none
  | .wDeactivateScroll | .wActivateScroll | .wSetVerticalScrollArea _ _ => none
  | .wRightScroll _ _ _ _ _ _ _ | .wLeftScroll _ _ _ _ _ _ _ => none
  | .wVertRightScroll _ _ _ _ _ _ _ | .wVertLeftScroll _ _ _ _ _ _ _ => none
  | .wColumnAddr _ _ | .wPageAddr _ _ => none

/-- The table of R181. -/
def accepts (i : Instr) (l : Lifecycle) : Bool :=
  match requires i with
  | some need => decide (l = need)
  | none => true

/-- DW_EMPTY: the width-to-write is not positive (41_dirty_window.md R116, D33). -/
def Window.isEmpty (w : Window) : Bool := decide (w.x2 - w.x1 + 1 ≤ 0)

end Sys2Proof.Machine
end

