-- ==== Sys2Proof/Machine/Operands.lean ====
section
/-! DEFINITION. Operand forms: derived geometry constants, the address decoder, the colour operation, clipping, the
mask tables and the rotation mapper (00_scope.md R7, 20_memory.md R35 to R38, R54, 40_framebuffer.md R101 to
R105, 42_rotation.md R121 to R128). -/

namespace Sys2Proof

/-! ## Geometry -/

/-- PAGES (00_scope.md R7). -/
def Geometry.pages (g : Geometry) : Nat := (g.height + 7) / 8

/-- FB_SIZE (R7). -/
def Geometry.fbSize (g : Geometry) : Nat := g.width * g.pages

/-- Address bits FB needs (20_memory.md R54). -/
def Geometry.addressBits (g : Geometry) : Nat := Nat.clog 2 g.fbSize

/-- The byte that holds a pixel (20_memory.md R35). -/
def Geometry.index (g : Geometry) (x y : Nat) : Nat := x + y / 8 * g.width

/-- The pixel of a byte's bit `k`, the inverse of the decoder (R38). -/
def Geometry.pixelOf (g : Geometry) (i k : Nat) : Nat × Nat := (i % g.width, 8 * (i / g.width) + k)

/-- The mask of a pixel in its byte (R36). -/
def bitmask (y : Nat) : Byte := 1#8 <<< (y % 8)

/-- A physical pixel lies in the buffer (R37). -/
def Geometry.inside (g : Geometry) (x y : Int) : Bool :=
  decide (0 ≤ x) && decide (x < g.width) && decide (0 ≤ y) && decide (y < g.height)

/-! ## Colours and masks -/

/-- The colour operation on the masked bits of a byte (40_framebuffer.md R101). -/
def Colour.apply (c : Colour) (b m : Byte) : Byte :=
  match c with
  | .white => b ||| m
  | .black => b &&& ~~~m
  | .inverse => b ^^^ m

/-- The colour operation on one pixel: set, clear or toggle (R109). -/
def Colour.bit (c : Colour) (b : Bool) : Bool :=
  match c with
  | .white => true
  | .black => false
  | .inverse => !b

/-- VLINE_PRE_MASK: the rows of a page from sub-page offset `k` down (R104, D36). -/
def vlinePreMask (k : Nat) : Byte := 0xFF#8 <<< k

/-- VLINE_POST_MASK: the first `k` rows of a page (R104). -/
def vlinePostMask (k : Nat) : Byte := 1#8 <<< k - 1#8

/-- The mask of the leading partial byte of a vertical run, sub-page offset `o`, `n` rows to draw (R105). -/
def leadMask (o n : Nat) : Byte :=
  if n < 8 - o then vlinePreMask o &&& vlinePostMask (o + n) else vlinePreMask o

/-! ## Clipping -/

/-- The first coordinate of a clipped run (R102, R103). -/
def clipLo (start : Int) : Int := max start 0

/-- The exclusive end of a clipped run (R102, R103). -/
def clipHi (start len limit : Int) : Int := min (start + len) limit

/-! ## The rotation mapper -/

/-- A logical run as the physical primitive it becomes, with its start (R120 to R122, R125): at 90° and 270° the
other primitive is called. WIDTH and HEIGHT are physical at every rotation (R126). -/
def Geometry.mapRun (g : Geometry) (q : Rotation) (k : RunKind) (x y len : Int) : RunKind × Int × Int :=
  match q, k with
  | .deg0, .horizontal => (.horizontal, x, y)
  | .deg90, .horizontal => (.vertical, g.width - 1 - y, x)
  | .deg180, .horizontal => (.horizontal, g.width - 1 - x - (len - 1), g.height - 1 - y)
  | .deg270, .horizontal => (.vertical, y, g.height - 1 - x - (len - 1))
  | .deg0, .vertical => (.vertical, x, y)
  | .deg90, .vertical => (.horizontal, g.width - 1 - y - (len - 1), x)
  | .deg180, .vertical => (.vertical, g.width - 1 - x, g.height - 1 - y - (len - 1))
  | .deg270, .vertical => (.horizontal, y, g.height - 1 - x)

/-- The physical pixel of a logical one (R124). -/
def Geometry.pointMap (g : Geometry) (q : Rotation) (x y : Int) : Int × Int :=
  match q with
  | .deg0 => (x, y)
  | .deg90 => (g.width - 1 - y, x)
  | .deg180 => (g.width - 1 - x, g.height - 1 - y)
  | .deg270 => (y, g.height - 1 - x)

/-- The logical extent, width and height (R128). -/
def Geometry.logicalExtent (g : Geometry) (q : Rotation) : Nat × Nat :=
  match q with
  | .deg0 | .deg180 => (g.width, g.height)
  | .deg90 | .deg270 => (g.height, g.width)

end Sys2Proof
end

