-- ==== Sys2Proof/WellFormed.lean ====
section
/-! DEFINITION. Which instructions an operation word can carry: the operands of format D are signed
numbers of 16 bits (30_encoding.md R56, R61); every other operand is bounded by its type. -/

namespace Sys2Proof

/-- The coordinates and the length of the instruction are signed numbers of `n` bits (10_state.md R20). -/
def Instr.fits (n : Nat) : Instr → Bool
  | .hrun _ len y x => fitsSigned n len && fitsSigned n y && fitsSigned n x
  | .vrun _ len y x => fitsSigned n len && fitsSigned n y && fitsSigned n x
  | .setrot _ | .startup | .display | .shutdown | .endisp _ | .invdisp _ => true
  | .scrl _ _ | .scrr _ _ | .scrdl _ _ | .scrdr _ _ | .scrup _ _ | .scrstop => true
  | .wDisplayOff | .wDisplayOn | .wSetClockDiv _ | .wSetMultiplex _ | .wMemoryMode _ => true
  | .wSegRemap | .wComScanDec | .wSetVcomDeselect _ | .wChargePump _ => true
  | .wSetDisplayOffset _ | .wSetStartLine _ | .wSetComPins _ | .wSetContrast _ => true
  | .wSetPrecharge _ | .wDisplayAllOnResume | .wNormalDisplay | .wInvertDisplay => true
  | .wDeactivateScroll | .wActivateScroll | .wSetVerticalScrollArea _ _ => true
  | .wRightScroll _ _ _ _ _ _ _ | .wLeftScroll _ _ _ _ _ _ _ => true
  | .wVertRightScroll _ _ _ _ _ _ _ | .wVertLeftScroll _ _ _ _ _ _ _ => true
  | .wColumnAddr _ _ | .wPageAddr _ _ => true

/-- The operands fit the fields of the instruction's format. -/
def Instr.wellFormed (i : Instr) : Bool := i.fits 16

/-- A host operation (the first fourteen rows of the table), as against a wire command. -/
def Instr.isHost : Instr → Bool
  | .hrun _ _ _ _ | .vrun _ _ _ _ | .setrot _ | .startup | .display | .shutdown => true
  | .endisp _ | .invdisp _ | .scrl _ _ | .scrr _ _ | .scrdl _ _ | .scrdr _ _ | .scrup _ _ | .scrstop => true
  | .wDisplayOff | .wDisplayOn | .wSetClockDiv _ | .wSetMultiplex _ | .wMemoryMode _ => false
  | .wSegRemap | .wComScanDec | .wSetVcomDeselect _ | .wChargePump _ => false
  | .wSetDisplayOffset _ | .wSetStartLine _ | .wSetComPins _ | .wSetContrast _ => false
  | .wSetPrecharge _ | .wDisplayAllOnResume | .wNormalDisplay | .wInvertDisplay => false
  | .wDeactivateScroll | .wActivateScroll | .wSetVerticalScrollArea _ _ => false
  | .wRightScroll _ _ _ _ _ _ _ | .wLeftScroll _ _ _ _ _ _ _ => false
  | .wVertRightScroll _ _ _ _ _ _ _ | .wVertLeftScroll _ _ _ _ _ _ _ => false
  | .wColumnAddr _ _ | .wPageAddr _ _ => false

end Sys2Proof
end

