-- ==== Sys2Proof/Decode.lean ====
section
/-! DEFINITION. Decoding and encoding: host operation words (30_encoding.md part 1), wire commands (part 2), and
the bits of a row of spec/opcode_table.json. Decoding is total and rejects by name. -/

namespace Sys2Proof

/-! ## Host operation words -/

/-- Colour codes (R62): 3 is reserved. -/
def decodeColour (c : BitVec 2) : Except DecodeError Colour :=
  match c.toNat with
  | 0 => .ok .black
  | 1 => .ok .white
  | 2 => .ok .inverse
  | _ => .error .reservedColour

/-- Quarter turns from the two bits of `OP.q` (R57, R61). -/
def decodeRotation (q : BitVec 2) : Rotation :=
  match q.toNat with
  | 0 => .deg0
  | 1 => .deg90
  | 2 => .deg180
  | _ => .deg270

/-- An operand from its 16-bit field: `sext_16` (R61). -/
def decodeOperand (v : BitVec 16) : Int := v.toInt

/-- Format D (R56, R61): `c` in 55:54, reserved 53:48, `len` in 47:32, `y` in 31:16, `x` in 15:0, the last three
signed. -/
def decodeD (mk : Colour → Int → Int → Int → Instr) (w : OpWord) : Except DecodeError Instr :=
  if w.extractLsb' 48 6 ≠ 0 then .error .reservedBits
  else
    match decodeColour (w.extractLsb' 54 2) with
    | .ok c => .ok (mk c (decodeOperand (w.extractLsb' 32 16)) (decodeOperand (w.extractLsb' 16 16))
        (decodeOperand (w.extractLsb' 0 16)))
    | .error e => .error e

/-- Format R (R57): `q` in 1:0, the rest reserved. -/
def decodeR (mk : Rotation → Instr) (w : OpWord) : Except DecodeError Instr :=
  if w.extractLsb' 2 54 ≠ 0 then .error .reservedBits else .ok (mk (decodeRotation (w.extractLsb' 0 2)))

/-- Format B (R58): `b` in bit 0, the rest reserved. -/
def decodeB (mk : Bool → Instr) (w : OpWord) : Except DecodeError Instr :=
  if w.extractLsb' 1 55 ≠ 0 then .error .reservedBits else .ok (mk (decide (w.extractLsb' 0 1 = 1)))

/-- Format S (R59): `stop` in 15:8, `start` in 7:0, the rest reserved. -/
def decodeS (mk : Byte → Byte → Instr) (w : OpWord) : Except DecodeError Instr :=
  if w.extractLsb' 16 40 ≠ 0 then .error .reservedBits
  else .ok (mk (w.extractLsb' 8 8) (w.extractLsb' 0 8))

/-- Format N (R60): no operand, all other bits reserved. -/
def decodeN (i : Instr) (w : OpWord) : Except DecodeError Instr :=
  if w.extractLsb' 0 56 ≠ 0 then .error .reservedBits else .ok i

/-- The opcode map of R63 over `w[63:56]`; every other opcode is illegal (R64). -/
def decodeHost (w : OpWord) : Except DecodeError Instr :=
  match (w.extractLsb' 56 8).toNat with
  | 0x01 => decodeD .hrun w
  | 0x02 => decodeD .vrun w
  | 0x03 => decodeR .setrot w
  | 0x10 => decodeN .startup w
  | 0x11 => decodeN .display w
  | 0x12 => decodeN .shutdown w
  | 0x13 => decodeB .endisp w
  | 0x14 => decodeB .invdisp w
  | 0x20 => decodeS .scrl w
  | 0x21 => decodeS .scrr w
  | 0x22 => decodeS .scrdl w
  | 0x23 => decodeS .scrdr w
  | 0x24 => decodeS .scrup w
  | 0x25 => decodeN .scrstop w
  | _ => .error .unknownOpcode

/-! ## Wire commands -/

/-- A command of one code byte (R71). -/
def wire0 (i : Instr) (rest : List Byte) : Except DecodeError (Instr × List Byte) := .ok (i, rest)

/-- A command with one parameter byte. -/
def wire1 (mk : Byte → Instr) : List Byte → Except DecodeError (Instr × List Byte)
  | a :: rest => .ok (mk a, rest)
  | [] => .error .truncatedWire

/-- A command with two parameter bytes. -/
def wire2 (mk : Byte → Byte → Instr) : List Byte → Except DecodeError (Instr × List Byte)
  | a :: b :: rest => .ok (mk a b, rest)
  | _ => .error .truncatedWire

/-- A directional scroll command: seven parameter bytes (R94 to R97). -/
def wire7 (mk : Byte → Byte → Byte → Byte → Byte → Byte → Byte → Instr) :
    List Byte → Except DecodeError (Instr × List Byte)
  | a :: b :: c :: d :: e :: f :: g :: rest => .ok (mk a b c d e f g, rest)
  | _ => .error .truncatedWire

/-- One wire command from the front of a list of bytes, by the code record `wc` (R73 to R99). R73 does not ask that
two code fields differ, and no rule says what a byte means that is the code of two commands: DESIGN CHOICE the
first command of the chain below, whose order is that of R73 but for the start-line range, which comes last (log
entry 31). -/
def decodeWire (wc : WireCodes) : List Byte → Except DecodeError (Instr × List Byte)
  | [] => .error .truncatedWire
  | k :: rest =>
    if k = wc.displayOff then wire0 .wDisplayOff rest
    else if k = wc.displayOn then wire0 .wDisplayOn rest
    else if k = wc.setClockDiv then wire1 .wSetClockDiv rest
    else if k = wc.setMultiplex then wire1 .wSetMultiplex rest
    else if k = wc.memoryMode then wire1 .wMemoryMode rest
    else if k = wc.segRemap then wire0 .wSegRemap rest
    else if k = wc.comScanDec then wire0 .wComScanDec rest
    else if k = wc.setVcomDeselect then wire1 .wSetVcomDeselect rest
    else if k = wc.chargePump then wire1 .wChargePump rest
    else if k = wc.setDisplayOffset then wire1 .wSetDisplayOffset rest
    else if k = wc.setComPins then wire1 .wSetComPins rest
    else if k = wc.setContrast then wire1 .wSetContrast rest
    else if k = wc.setPrecharge then wire1 .wSetPrecharge rest
    else if k = wc.displayAllOnResume then wire0 .wDisplayAllOnResume rest
    else if k = wc.normalDisplay then wire0 .wNormalDisplay rest
    else if k = wc.invertDisplay then wire0 .wInvertDisplay rest
    else if k = wc.deactivateScroll then wire0 .wDeactivateScroll rest
    else if k = wc.activateScroll then wire0 .wActivateScroll rest
    else if k = wc.setVerticalScrollArea then wire2 .wSetVerticalScrollArea rest
    else if k = wc.rightScroll then wire7 .wRightScroll rest
    else if k = wc.leftScroll then wire7 .wLeftScroll rest
    else if k = wc.vertRightScroll then wire7 .wVertRightScroll rest
    else if k = wc.vertLeftScroll then wire7 .wVertLeftScroll rest
    else if k = wc.columnAddr then wire2 .wColumnAddr rest
    else if k = wc.pageAddr then wire2 .wPageAddr rest
    else if k &&& 0xC0#8 = wc.setStartLine &&& 0xC0#8 then wire0 (.wSetStartLine (k.extractLsb' 0 6)) rest
    else .error .unknownWireCode

/-- Exactly one wire command. -/
def decodeWireWord (wc : WireCodes) (bs : List Byte) : Except DecodeError Instr :=
  match decodeWire wc bs with
  | .ok (i, []) => .ok i
  | .ok (_, _ :: _) => .error .trailingBytes
  | .error e => .error e

/-- The instruction an instruction word carries. -/
def decode (p : Params) : InstrWord → Except DecodeError Instr
  | .host w => decodeHost w
  | .wire bs => decodeWireWord p.wc bs

/-! ## The encoder -/

/-- The code of a colour (R62). -/
def Colour.code : Colour → Nat
  | .black => 0
  | .white => 1
  | .inverse => 2

/-- The code of a rotation (10_state.md R17). -/
def Rotation.code : Rotation → Nat
  | .deg0 => 0
  | .deg90 => 1
  | .deg180 => 2
  | .deg270 => 3

/-- R69, format D; the fields do not overlap, so the sum is the `|` of the rule. -/
def wordD (opcode : Nat) (c : Colour) (len y x : Int) : OpWord :=
  BitVec.ofNat 64 (opcode * 2 ^ 56 + c.code * 2 ^ 54 + (BitVec.ofInt 16 len).toNat * 2 ^ 32 +
    (BitVec.ofInt 16 y).toNat * 2 ^ 16 + (BitVec.ofInt 16 x).toNat)

/-- R69, format S. -/
def wordS (opcode : Nat) (stop start : Byte) : OpWord :=
  BitVec.ofNat 64 (opcode * 2 ^ 56 + stop.toNat * 2 ^ 8 + start.toNat)

/-- R69, formats R, B and N: the opcode and one small operand. -/
def wordN (opcode low : Nat) : OpWord := BitVec.ofNat 64 (opcode * 2 ^ 56 + low)

/-- The word of an instruction, by R69 for a host operation and by R74 to R99 for a wire command. -/
def encode (wc : WireCodes) : Instr → InstrWord
  | .hrun c len y x => .host (wordD 0x01 c len y x)
  | .vrun c len y x => .host (wordD 0x02 c len y x)
  | .setrot q => .host (wordN 0x03 q.code)
  | .startup => .host (wordN 0x10 0)
  | .display => .host (wordN 0x11 0)
  | .shutdown => .host (wordN 0x12 0)
  | .endisp b => .host (wordN 0x13 b.toNat)
  | .invdisp b => .host (wordN 0x14 b.toNat)
  | .scrl stop start => .host (wordS 0x20 stop start)
  | .scrr stop start => .host (wordS 0x21 stop start)
  | .scrdl stop start => .host (wordS 0x22 stop start)
  | .scrdr stop start => .host (wordS 0x23 stop start)
  | .scrup stop start => .host (wordS 0x24 stop start)
  | .scrstop => .host (wordN 0x25 0)
  | .wDisplayOff => .wire [wc.displayOff]
  | .wDisplayOn => .wire [wc.displayOn]
  | .wSetClockDiv a => .wire [wc.setClockDiv, a]
  | .wSetMultiplex a => .wire [wc.setMultiplex, a]
  | .wMemoryMode a => .wire [wc.memoryMode, a]
  | .wSegRemap => .wire [wc.segRemap]
  | .wComScanDec => .wire [wc.comScanDec]
  | .wSetVcomDeselect a => .wire [wc.setVcomDeselect, a]
  | .wChargePump a => .wire [wc.chargePump, a]
  | .wSetDisplayOffset a => .wire [wc.setDisplayOffset, a]
  | .wSetStartLine l => .wire [wc.setStartLine ||| l.setWidth 8]
  | .wSetComPins a => .wire [wc.setComPins, a]
  | .wSetContrast a => .wire [wc.setContrast, a]
  | .wSetPrecharge a => .wire [wc.setPrecharge, a]
  | .wDisplayAllOnResume => .wire [wc.displayAllOnResume]
  | .wNormalDisplay => .wire [wc.normalDisplay]
  | .wInvertDisplay => .wire [wc.invertDisplay]
  | .wDeactivateScroll => .wire [wc.deactivateScroll]
  | .wActivateScroll => .wire [wc.activateScroll]
  | .wSetVerticalScrollArea a b => .wire [wc.setVerticalScrollArea, a, b]
  | .wRightScroll a b c d e f g => .wire [wc.rightScroll, a, b, c, d, e, f, g]
  | .wLeftScroll a b c d e f g => .wire [wc.leftScroll, a, b, c, d, e, f, g]
  | .wVertRightScroll a b c d e f g => .wire [wc.vertRightScroll, a, b, c, d, e, f, g]
  | .wVertLeftScroll a b c d e f g => .wire [wc.vertLeftScroll, a, b, c, d, e, f, g]
  | .wColumnAddr a b => .wire [wc.columnAddr, a, b]
  | .wPageAddr a b => .wire [wc.pageAddr, a, b]

/-- The bytes of an instruction word as the table counts them: a host word is eight bytes, most significant
first; a wire command is its bytes in sending order. -/
def InstrWord.bytes : InstrWord → List Byte
  | .host w => (List.range 8).map fun k => w.extractLsb' (56 - 8 * k) 8
  | .wire bs => bs

/-! ## Rows of spec/opcode_table.json -/

/-- The `n` bytes of a row's bits, most significant first: the table numbers a wire row with its code byte in the
highest bits (log entry 9). -/
def bytesOfBits : Nat → Nat → List Byte
  | 0, _ => []
  | n + 1, w => BitVec.ofNat 8 (w / 256 ^ n) :: bytesOfBits n w

/-- The width the table gives an instruction's row, in bits. -/
def Instr.rowBits : Instr → Nat
  | .hrun _ _ _ _ | .vrun _ _ _ _ | .setrot _ | .startup | .display | .shutdown => 64
  | .endisp _ | .invdisp _ | .scrl _ _ | .scrr _ _ | .scrdl _ _ | .scrdr _ _ | .scrup _ _ | .scrstop => 64
  | .wDisplayOff | .wDisplayOn | .wSegRemap | .wComScanDec | .wSetStartLine _ => 8
  | .wDisplayAllOnResume | .wNormalDisplay | .wInvertDisplay | .wDeactivateScroll | .wActivateScroll => 8
  | .wSetClockDiv _ | .wSetMultiplex _ | .wMemoryMode _ | .wSetVcomDeselect _ | .wChargePump _ => 16
  | .wSetDisplayOffset _ | .wSetComPins _ | .wSetContrast _ | .wSetPrecharge _ => 16
  | .wSetVerticalScrollArea _ _ | .wColumnAddr _ _ | .wPageAddr _ _ => 24
  | .wRightScroll _ _ _ _ _ _ _ | .wLeftScroll _ _ _ _ _ _ _ => 64
  | .wVertRightScroll _ _ _ _ _ _ _ | .wVertLeftScroll _ _ _ _ _ _ _ => 64

/-- A row's bits as an instruction word: 64 bits that are no host operation but are a wire command (the
directional scrolls) are that command's bytes; every other 64-bit word is a host word; a shorter one is the
bytes of a wire command. -/
def tableWord (nbits w : Nat) : InstrWord :=
  let bs := bytesOfBits (nbits / 8) w
  if nbits = 64 then
    match decodeHost (BitVec.ofNat 64 w), decodeWireWord WireCodes.default bs with
    | .error _, .ok _ => .wire bs
    | _, _ => .host (BitVec.ofNat 64 w)
  else .wire bs

/-- The instruction the decoder reads from a row's bits. -/
def decodeTableWord (nbits w : Nat) : Option Instr :=
  match decode Params.default (tableWord nbits w) with
  | .ok i => some i
  | .error _ => none

/-! ## Pseudo-operations -/

/-- The operations a pseudo-operation stands for (30_encoding.md R68): `none` where one of them does not fit an
operation word (log entry 27). -/
def Pseudo.expand (p : Pseudo) : Option (List Instr) :=
  let ops : List Instr :=
    match p with
    | .pixel x y c => [.hrun c 1 y x]
    | .fillRect x y w h c => (List.range h.toNat).map fun (i : Nat) => .hrun c w (y + i) x
    | .rot q => [.setrot q]
    | .dispOn => [.endisp true]
    | .dispOff => [.endisp false]
  if ops.all Instr.wellFormed then some ops else none

end Sys2Proof
end

