-- ==== Sys2Proof/Machine/Memory.lean ====
section
/-! DEFINITION. Byte memories: reading, listing and unlisting a cell, and writing a byte where an unlisted address
reads as a given value, so that equal memories are equal lists. -/

namespace Sys2Proof.Machine

/-- The listed byte at an address. -/
def Memory.get? : Memory → Nat → Option Byte
  | [], _ => none
  | (k, v) :: m, a => if k = a then some v else Memory.get? m a

/-- List a cell, in its place. -/
def Memory.set : Memory → Nat → Byte → Memory
  | [], a, b => [(a, b)]
  | (k, v) :: m, a, b =>
    if a < k then (a, b) :: (k, v) :: m
    else if a = k then (a, b) :: m
    else (k, v) :: Memory.set m a b

/-- Unlist a cell. -/
def Memory.erase : Memory → Nat → Memory
  | [], _ => []
  | (k, v) :: m, a => if k = a then m else (k, v) :: Memory.erase m a

/-- Write `b` at `a`, where `d` is what `a` reads as when unlisted. -/
def Memory.write (d : Byte) (m : Memory) (a : Nat) (b : Byte) : Memory :=
  if b = d then m.erase a else m.set a b

/-- The addresses rise strictly. -/
def Memory.rising : Memory → Bool
  | [] => true
  | [_] => true
  | (a, _) :: (b, v) :: m => decide (a < b) && Memory.rising ((b, v) :: m)

/-- The canonical form: addresses strictly rising and below `size`, and no cell equal to what it reads as when
unlisted, `dflt`. -/
def Memory.wf (size : Nat) (dflt : Nat → Byte) (m : Memory) : Bool :=
  m.rising && m.all fun c => decide (c.1 < size) && decide (c.2 ≠ dflt c.1)

end Sys2Proof.Machine
end

