-- ==== Sys2Proof/Machine/Panel.lean ====
section
/-! DEFINITION. The ghost of the panel: what the transactions answered so far determine of it (20_memory.md R46,
70_reset_and_hazards.md R197, R204, 93 U5 to U7, U20 to U22). PRESUMED: R46 is general knowledge, and the
panel is outside the block (00_scope.md R4; log entries 10, 11). -/

namespace Sys2Proof.Machine

/-- The cell of GDDRAM at a page and a column. -/
def Panel.cell (page col : Byte) : Nat := page.toNat * 256 + col.toNat

/-- The cells `n` data bytes go to, from column `c` of page `pg`, wrapping from `b` to `a` (R46). R46 and 30_encoding.md
R98 are silent on a range whose start is above its end and on pages and columns beyond the panel, which only wire
commands on their own can set: DESIGN CHOICE the column counts modulo 256 until it equals the end byte, and there is a
cell for every page byte and column byte (log entry 32). -/
def Panel.cells (pg a b : Byte) : Byte → Nat → List Nat
  | _, 0 => []
  | c, n + 1 => Panel.cell pg c :: Panel.cells pg a b (if c = b then a else c + 1) n

/-- One complete wire command taken by the panel. -/
def Panel.apply (wc : WireCodes) (i : Instr) (p : Panel) : Panel :=
  match i with
  | .wDisplayOff => { p with display := some false }
  | .wDisplayOn => { p with display := some true }
  | .wSetClockDiv a => { p with clockDiv := some a }
  | .wSetMultiplex a => { p with multiplex := some a }
  | .wMemoryMode a => { p with memoryMode := some a, pointer := none }
  | .wSegRemap => { p with segRemapped := some (wc.segRemap.getLsbD 0) }
  | .wComScanDec => { p with comScan := some wc.comScanDec }
  | .wSetVcomDeselect a => { p with vcomDeselect := some a }
  | .wChargePump a => { p with chargePump := some a }
  | .wSetDisplayOffset a => { p with displayOffset := some a }
  | .wSetStartLine l => { p with startLine := some l }
  | .wSetComPins a => { p with comPins := some a }
  | .wSetContrast a => { p with contrast := some a }
  | .wSetPrecharge a => { p with precharge := some a }
  | .wDisplayAllOnResume => { p with allOnResumed := some true }
  | .wNormalDisplay => { p with inverted := some false }
  | .wInvertDisplay => { p with inverted := some true }
  | .wDeactivateScroll => { p with scrolling := some false }
  | .wActivateScroll => { p with scrolling := some true, gddram := [] }
  | .wSetVerticalScrollArea a b => { p with verticalArea := some (a, b) }
  | .wRightScroll .. | .wLeftScroll .. | .wVertRightScroll .. | .wVertLeftScroll .. =>
    { p with scrollSetup := some (encode wc i).bytes }
  | .wPageAddr a b => { p with pageRange := some (a, b), pointer := none }
  | .wColumnAddr a b =>
    { p with
      colRange := some (a, b)
      pointer := match p.pageRange with
        | some (pg, pg') => if pg = pg' then some (pg, a) else none
        | none => none }
  | .hrun .. | .vrun .. | .setrot .. | .startup | .display | .shutdown | .endisp .. | .invdisp .. => p
  | .scrl .. | .scrr .. | .scrdl .. | .scrdr .. | .scrup .. | .scrstop => p

/-- Keep a value two panels agree on. -/
def agree {α : Type} [DecidableEq α] (x y : Option α) : Option α := if x = y then x else none

/-- What is determined if the panel is one of two. -/
def Panel.join (p q : Panel) : Panel where
  gddram := p.gddram.filter fun c => decide (q.gddram.get? c.1 = some c.2)
  pageRange := agree p.pageRange q.pageRange
  colRange := agree p.colRange q.colRange
  pointer := agree p.pointer q.pointer
  memoryMode := agree p.memoryMode q.memoryMode
  display := agree p.display q.display
  inverted := agree p.inverted q.inverted
  scrolling := agree p.scrolling q.scrolling
  allOnResumed := agree p.allOnResumed q.allOnResumed
  segRemapped := agree p.segRemapped q.segRemapped
  comScan := agree p.comScan q.comScan
  clockDiv := agree p.clockDiv q.clockDiv
  multiplex := agree p.multiplex q.multiplex
  vcomDeselect := agree p.vcomDeselect q.vcomDeselect
  chargePump := agree p.chargePump q.chargePump
  displayOffset := agree p.displayOffset q.displayOffset
  startLine := agree p.startLine q.startLine
  comPins := agree p.comPins q.comPins
  contrast := agree p.contrast q.contrast
  precharge := agree p.precharge q.precharge
  verticalArea := agree p.verticalArea q.verticalArea
  scrollSetup := agree p.scrollSetup q.scrollSetup

/-- The commands in the bytes of a command transaction; the first argument bounds their number. The spec is silent on
what the panel takes when OP_SCROLL_UP is the code of no directional scroll (30_encoding.md R96 names it as a code of
SCRUP by default, and no rule bounds the parameter): DESIGN CHOICE the eight bytes of SCRUP are read as whatever
commands `decodeWire` finds in them, like any others (log entry 33). -/
def parseCommands (wc : WireCodes) : Nat → List Byte → Option (List Instr)
  | _, [] => some []
  | 0, _ :: _ => none
  | n + 1, b :: bs =>
    match decodeWire wc (b :: bs) with
    | .ok (i, rest) => (parseCommands wc n rest).map (i :: ·)
    | .error _ => none

/-- A command transaction delivered whole; bytes outside the command set leave nothing determined. -/
def Panel.commands (wc : WireCodes) (bs : List Byte) (p : Panel) : Panel :=
  match parseCommands wc bs.length bs with
  | some is => is.foldl (fun p i => p.apply wc i) p
  | none => .unknown

/-- A command transaction of which any prefix, or nothing, arrived (U6). -/
def Panel.commandsUncertain (wc : WireCodes) (bs : List Byte) (p : Panel) : Panel :=
  match parseCommands wc bs.length bs with
  | some is => is.foldl (fun p i => p.join (p.apply wc i)) p
  | none => .unknown

/-- Where the pointer lies and how it wraps, if data bytes have a determined effect: no scroll active, horizontal
addressing, page and column ranges set (R46). -/
def Panel.target (p : Panel) : Option (Byte × Byte × Byte × Byte) :=
  if p.scrolling = some false ∧ p.memoryMode = some 0 then
    match p.pointer, p.colRange with
    | some (pg, c), some (a, b) => some (pg, c, a, b)
    | _, _ => none
  else none

/-- The pointer after `n` data bytes. -/
def Panel.advance (a b : Byte) : Byte → Nat → Byte
  | c, 0 => c
  | c, n + 1 => Panel.advance a b (if c = b then a else c + 1) n

/-- A data transaction delivered whole. -/
def Panel.write (ds : List Byte) (p : Panel) : Panel :=
  match p.target with
  | some (pg, c, a, b) =>
    { p with
      gddram := ((Panel.cells pg a b c ds.length).zip ds).foldl (fun m x => m.set x.1 x.2) p.gddram
      pointer := some (pg, Panel.advance a b c ds.length) }
  | none => { p with gddram := [], pointer := none }

/-- A data transaction of which any prefix, or nothing, arrived (U6, U7). -/
def Panel.writeUncertain (ds : List Byte) (p : Panel) : Panel :=
  match p.target with
  | some (pg, c, a, b) =>
    { p with
      gddram := (Panel.cells pg a b c ds.length).foldl (fun m x => m.erase x) p.gddram
      pointer := none }
  | none => { p with gddram := [], pointer := none }

/-- The panel after a transaction answered `ok`: taken whole and in order (60_exceptions.md R176). -/
def Panel.delivered (wc : WireCodes) (t : Txn) (p : Panel) : Panel :=
  match t with
  | .cmd1 b => p.commands wc [b]
  | .cmdseq bs => p.commands wc bs
  | .data ds => p.write ds
  | .release => p

/-- The panel after a transaction answered `fail`, or not answered (R176, U6, U9). Of a failed flush U7 says any value
for the pages at and after the failed page, "old or new content per U6": DESIGN CHOICE a cell to which no data was
sent, of a later page or of the failed page when its address command failed, keeps what was determined of it, the
old content (70_reset_and_hazards.md R205; log entry 11). -/
def Panel.uncertain (wc : WireCodes) (t : Txn) (p : Panel) : Panel :=
  match t with
  | .cmd1 b => p.commandsUncertain wc [b]
  | .cmdseq bs => p.commandsUncertain wc bs
  | .data ds => p.writeUncertain ds
  | .release => p

end Sys2Proof.Machine
end

