-- ==== Sys2Proof/Machine/Ops.lean ====
section
/-! DEFINITION. The shared operations: framebuffer access and the two primitives, the dirty window, bus
transactions, FLUSH, ending an operation with a result code, accepting one, and reset. -/

namespace Sys2Proof.Machine

/-! ## The framebuffer -/

/-- What byte `i` of FB reads as when nothing has written it: FB_RESET (10_state.md R33, log entry 15). -/
def fbDefault (p : Params) (i : Nat) : Byte := p.fbReset.getD i 0

/-- `FB[i]` (00_scope.md R12). -/
def fbRead (p : Params) (m : Memory) (i : Nat) : Byte := (m.get? i).getD (fbDefault p i)

/-- `FB[i] <- b`. -/
def fbWrite (p : Params) (m : Memory) (i : Nat) (b : Byte) : Memory := m.write (fbDefault p i) i b

/-- The read-modify-write of one byte (20_memory.md R41). -/
def fbModify (p : Params) (c : Colour) (m : Memory) (i : Nat) (mask : Byte) : Memory :=
  fbWrite p m i (c.apply (fbRead p m i) mask)

/-- One pixel (20_memory.md R35, R36, 40_framebuffer.md R101). -/
def plot (p : Params) (c : Colour) (m : Memory) (x y : Nat) : Memory :=
  fbModify p c m (p.geometry.index x y) (bitmask y)

/-- The value of a pixel. -/
def pixel (p : Params) (m : Memory) (x y : Nat) : Bool :=
  (fbRead p m (p.geometry.index x y)).getLsbD (y % 8)

/-- The loop of FB_HRUN over `n` columns (R102). -/
def hrunCells (p : Params) (c : Colour) (xa y n : Nat) (m : Memory) : Memory :=
  (List.range n).foldl (fun m k => plot p c m (xa + k) y) m

/-- The loop of FB_VRUN over `n` rows, its pixel-level meaning (R103; log entry 29). -/
def vrunCells (p : Params) (c : Colour) (x ya n : Nat) (m : Memory) : Memory :=
  (List.range n).foldl (fun m k => plot p c m x (ya + k)) m

/-- The whole bytes of a vertical run, stride WIDTH (R105). -/
def vrunWhole (p : Params) (c : Colour) (idx k : Nat) (m : Memory) : Memory :=
  (List.range k).foldl (fun m j => fbModify p c m (idx + j * p.geometry.width) 0xFF#8) m

/-- The whole bytes and the trailing partial byte of a vertical run of `n` rows from byte `idx` (R105). -/
def vrunTail (p : Params) (c : Colour) (idx n : Nat) (m : Memory) : Memory :=
  let m := vrunWhole p c idx (n / 8) m
  if 0 < n % 8 then fbModify p c m (idx + n / 8 * p.geometry.width) (vlinePostMask (n % 8)) else m

/-- The byte-level decomposition of FB_VRUN (R105): leading partial byte, whole bytes, trailing partial byte. -/
def vrunByteCells (p : Params) (c : Colour) (x ya n : Nat) (m : Memory) : Memory :=
  let idx := p.geometry.index x ya
  let o := ya % 8
  if o ≠ 0 then
    vrunTail p c (idx + p.geometry.width) (n - min n (8 - o)) (fbModify p c m idx (leadMask o n))
  else vrunTail p c idx n m

/-! ## The dirty window -/

/-- DW_EXPAND (41_dirty_window.md R113). -/
def Window.expand (w : Window) (x1 y1 x2 y2 : Int) : Window :=
  ⟨min w.x1 x1, min w.y1 y1, max w.x2 x2, max w.y2 y2⟩

/-- The whole buffer (R114). -/
def Window.full (g : Geometry) : Window := ⟨0, 0, (g.width : Int) - 1, (g.height : Int) - 1⟩

/-- The empty sentinel (R115). -/
def Window.sentinel (g : Geometry) : Window := ⟨g.width, g.height, -1, -1⟩

/-- DW_MARK_FULL (R114). -/
def State.markFull (s : State) : State := { s with dw := Window.full s.cfg.geometry }

/-- DW_RESET (R115). -/
def State.resetWindow (s : State) : State := { s with dw := Window.sentinel s.cfg.geometry }

/-- FLUSH may read the bytes of the window: it is empty or lies in the buffer (20_memory.md R37, R44, R45). -/
def Window.readable (g : Geometry) (w : Window) : Bool :=
  w.isEmpty || (decide (0 ≤ w.x1) && decide (w.x2 < g.width) && decide (0 ≤ w.y1) && decide (w.y2 < g.height))

/-! ## The two primitives -/

/-- FB_HRUN (R102). -/
def State.fbHrun (x y len : Int) (c : Colour) (s : State) : State :=
  let xa := clipLo x
  let xe := clipHi x len s.cfg.geometry.width
  if y < 0 ∨ (s.cfg.geometry.height : Int) ≤ y then s
  else if xe - xa ≤ 0 then s
  else
    { s with
      fb := hrunCells s.cfg c xa.toNat y.toNat (xe - xa).toNat s.fb
      dw := s.dw.expand xa y (xe - 1) y }

/-- FB_VRUN (R103). -/
def State.fbVrun (x y len : Int) (c : Colour) (s : State) : State :=
  let ya := clipLo y
  let ye := clipHi y len s.cfg.geometry.height
  if x < 0 ∨ (s.cfg.geometry.width : Int) ≤ x then s
  else if ye - ya ≤ 0 then s
  else
    { s with
      fb := vrunCells s.cfg c x.toNat ya.toNat (ye - ya).toNat s.fb
      dw := s.dw.expand x ya x (ye - 1) }

/-- FB_VRUN by the byte-level decomposition (R105). -/
def State.fbVrunBytes (x y len : Int) (c : Colour) (s : State) : State :=
  let ya := clipLo y
  let ye := clipHi y len s.cfg.geometry.height
  if x < 0 ∨ (s.cfg.geometry.width : Int) ≤ x then s
  else if ye - ya ≤ 0 then s
  else
    { s with
      fb := vrunByteCells s.cfg c x.toNat ya.toNat (ye - ya).toNat s.fb
      dw := s.dw.expand x ya x (ye - 1) }

/-- The primitive of a kind. -/
def State.runPrim (k : RunKind) (x y len : Int) (c : Colour) (s : State) : State :=
  match k with
  | .horizontal => s.fbHrun x y len c
  | .vertical => s.fbVrun x y len c

/-- A logical run through the rotation mapper (42_rotation.md R121, R122). -/
def State.drawRun (k : RunKind) (x y len : Int) (c : Colour) (s : State) : State :=
  let r := s.cfg.geometry.mapRun s.rot k x y len
  s.runPrim r.1 r.2.1 r.2.2 len c

/-- SPLASH, in physical coordinates (43_sequencer.md R136). -/
def State.applySplash (s : State) : State :=
  s.cfg.splash.foldl (fun s c => s.runPrim c.kind c.x c.y c.length c.colour) s

/-! ## Ending and accepting an operation -/

/-- An operation ends with a result code, the one way errors are taken too (`raise`): the code is delivered, the
sequencer is idle, the host port ready; an error saves nothing and transfers nowhere, so there is nothing to
return from (10_state.md R30, R21, 60_exceptions.md R171 to R173, R177, R182, R183). -/
def State.deliver (r : ResultCode) (s : State) : State :=
  { s with
    res := some r
    results := s.results ++ [r]
    opReady := true
    seq := .idle
    bus := none
    latch := none }

/-- The lifecycle check, the first thing a legal operation does (60_exceptions.md R171, R180). -/
def State.whenLc (need : Lifecycle) (body : State → State) (s : State) : State :=
  if s.lc = need then body s else s.deliver .eUsage

/-- The host port takes an operation (10_state.md R29, R20): `rest` is what the host presents later. -/
def State.accept (i : Option Instr) (rest : List Input) (s : State) : State :=
  { s with inputs := rest, opReady := false, res := none, latch := i }

/-! ## Bus transactions -/

/-- How a stretch of transactions ended. -/
inductive Io where
  /-- Every transaction was answered `ok`. -/
  | done (s : State)
  /-- The last transaction was answered `fail`. -/
  | failed (s : State)
  /-- The last transaction was not answered (70_reset_and_hazards.md R207). -/
  | waiting (s : State)
deriving DecidableEq, Repr

/-- Go on only after `ok`: the `orfail` of 00_scope.md R12. -/
def Io.bind (r : Io) (f : State → Io) : Io :=
  match r with
  | .done s => f s
  | .failed s => .failed s
  | .waiting s => .waiting s

/-- Go on after `ok` without a further transaction. -/
def Io.map (r : Io) (f : State → State) : Io :=
  match r with
  | .done s => .done (f s)
  | .failed s => .failed s
  | .waiting s => .waiting s

/-- The operation ends OK, or with E_TRANSPORT (60_exceptions.md R172), or does not end (R207). -/
def Io.finish (r : Io) : State :=
  match r with
  | .done s => s.deliver .ok
  | .failed s => s.deliver .eTransport
  | .waiting s => s

/-- The next answer and the transport after it (60_exceptions.md R176). -/
def Transport.next (t : Transport) : Answer × Transport :=
  match t.script with
  | a :: as => (a, { t with script := as })
  | [] => (t.after, t)

/-- `emit T orfail` (00_scope.md R12, 10_state.md R21, R31). -/
def State.emit (t : Txn) (s : State) : Io :=
  match s.transport.next with
  | (.ok, tr) => .done
      { s with
        transport := tr
        trace := s.trace ++ [⟨t, true⟩]
        seq := ⟨s.seq.step + 1, s.seq.page⟩
        panel := s.panel.delivered s.cfg.wc t }
  | (.fail, tr) => .failed
      { s with
        transport := tr
        trace := s.trace ++ [⟨t, false⟩]
        panel := s.panel.uncertain s.cfg.wc t }
  | (.never, tr) => .waiting
      { s with
        transport := tr
        bus := some t
        opReady := false
        res := none
        panel := s.panel.uncertain s.cfg.wc t }

/-- A list of transactions in order, up to the first that is not answered `ok` (60_exceptions.md R172). -/
def emitAll : List Txn → State → Io
  | [], s => .done s
  | t :: ts, s => (s.emit t).bind (emitAll ts)

/-- One controller command as one transaction: CMD1 for a code byte alone, CMDSEQ with parameters (30_encoding.md
R71, D17). -/
def commandTxn (bs : List Byte) : Txn :=
  match bs with
  | [b] => .cmd1 b
  | _ => .cmdseq bs

/-- The transaction of a wire command (R74 to R99). -/
def wireTxn (wc : WireCodes) (i : Instr) : Txn := commandTxn (encode wc i).bytes

/-- A wire command issued on its own (log entry 8). -/
def State.issueWire (i : Instr) (s : State) : State := (s.emit (wireTxn s.cfg.wc i)).finish

/-! ## FLUSH -/

/-- A page or a column as a byte (30_encoding.md R72). -/
def byteOf (v : Int) : Byte := BitVec.ofInt 8 v

/-- The pages that meet the rows of a window, ascending (43_sequencer.md R138). -/
def Window.pages (w : Window) : List Nat :=
  List.range' (w.y1.toNat / 8) (w.y2.toNat / 8 + 1 - w.y1.toNat / 8)

/-- The page-address-range and column-address-range commands of a page, as one command (R138). -/
def addressTxn (wc : WireCodes) (w : Window) (pg : Nat) : Txn :=
  .cmdseq ((encode wc (.wPageAddr (byteOf pg) (byteOf pg))).bytes ++
    (encode wc (.wColumnAddr (byteOf w.x1) (byteOf w.x2))).bytes)

/-- `FB[pg*WIDTH + x1 .. pg*WIDTH + x2]`, ascending (20_memory.md R39). -/
def pageBytes (p : Params) (m : Memory) (w : Window) (pg : Nat) : List Byte :=
  (List.range (w.x2 - w.x1 + 1).toNat).map fun k => fbRead p m (pg * p.geometry.width + w.x1.toNat + k)

/-- The two transactions of one page (R138). -/
def pageTxns (p : Params) (m : Memory) (w : Window) (pg : Nat) : List Txn :=
  [addressTxn p.wc w pg, .data (pageBytes p m w pg)]

/-- The page counter of SEQ (10_state.md R21). -/
def State.atPage (pg : Nat) (s : State) : State := { s with seq := ⟨s.seq.step, pg⟩ }

/-- The page loop of FLUSH over the window `w` read when it began (R138). -/
def emitPages (w : Window) : List Nat → State → Io
  | [], s => .done s
  | pg :: rest, s => (emitAll (pageTxns s.cfg s.fb w pg) (s.atPage pg)).bind (emitPages w rest)

/-- FLUSH (R138, R144, R146): nothing where the window is empty; else every page, and DW_RESET after the last.
SEQ.page is put back to 0 after the last page: 10_state.md R21 gives the page counter to the loop and is silent on
what it holds while the operation still runs (the display-on of STARTUP), so that is a DESIGN CHOICE (log entry 6). -/
def State.flush (s : State) : Io :=
  if s.dw.isEmpty then .done s
  else (emitPages s.dw s.dw.pages s).map fun s => (s.atPage 0).resetWindow

/-! ## Reset and construction -/

/-- Hardware reset (70_reset_and_hazards.md R193, R194, R209): the block's own state as after construction; the
outside, what it has seen and the panel as they were. -/
def State.assertReset (s : State) : State :=
  { State.resetWith s.cfg with
    inputs := s.inputs
    transport := s.transport
    trace := s.trace
    results := s.results
    panel := s.panel }

/-- Building a block: a geometry outside 00_scope.md R6 is refused (60_exceptions.md R191). -/
def construct (p : Params) (width height : Int) (extvcc : Bool) : Host.Outcome State Fault Refusal :=
  if hw : 1 ≤ width.toNat ∧ width.toNat ≤ 128 then
    if hh : 1 ≤ height.toNat ∧ height.toNat ≤ 64 then
      .next (State.resetWith { p with geometry := ⟨width.toNat, height.toNat, extvcc, hw, hh⟩ })
    else .refused .malformedGeometry
  else .refused .malformedGeometry

end Sys2Proof.Machine
end

