-- ==== Sys2Proof/Machine/Draw.lean ====
section
/-! DEFINITION. The drawing and configuration operations HRUN, VRUN and SETROT (42_rotation.md R121 to R123). -/

namespace Sys2Proof.Machine

/-- HRUN (R121): Active only (R127); the run through the mapper; no transaction; OK. -/
def execHrun (c : Colour) (len y x : Int) (s : State) : Host.Outcome State Fault Refusal :=
  .next (s.whenLc .active fun s => (s.drawRun .horizontal x y len c).deliver .ok)

/-- VRUN (R122). -/
def execVrun (c : Colour) (len y x : Int) (s : State) : Host.Outcome State Fault Refusal :=
  .next (s.whenLc .active fun s => (s.drawRun .vertical x y len c).deliver .ok)

/-- SETROT (R123): ROT alone, in every lifecycle state. -/
def execSetrot (q : Rotation) (s : State) : Host.Outcome State Fault Refusal :=
  .next ({ s with rot := q }.deliver .ok)

end Sys2Proof.Machine
end

