-- ==== Sys2Proof/Machine/Scroll.lean ====
section
/-! DEFINITION. The scroll command builder: SCRL, SCRR, SCRDL, SCRDR, SCRUP and SCRSTOP (44_scroll.md R156 to
R167). -/

namespace Sys2Proof.Machine

/-- The four transactions of a start-scroll operation (R158); the page operands go out unchecked (R167). -/
def scrollTxns (p : Params) (dircode hinc vinc stop start : Byte) : List Txn :=
  [wireTxn p.wc .wDeactivateScroll,
   wireTxn p.wc (.wSetVerticalScrollArea 0x00 (byteOf p.geometry.height)),
   .cmdseq [dircode, hinc, start, p.scrollFrameRate, stop, vinc, 0x00, byteOf (p.geometry.width - 1)],
   wireTxn p.wc .wActivateScroll]

/-- The start-scroll sequence (R158, R166): Active only; no state is written. -/
def State.startScroll (dircode hinc vinc stop start : Byte) (s : State) : State :=
  s.whenLc .active fun s => (emitAll (scrollTxns s.cfg dircode hinc vinc stop start) s).finish

/-- SCRL (R159). -/
def execScrl (stop start : Byte) (s : State) : Host.Outcome State Fault Refusal :=
  .next (s.startScroll s.cfg.wc.leftScroll 0x00 0x00 stop start)

/-- SCRR (R160). -/
def execScrr (stop start : Byte) (s : State) : Host.Outcome State Fault Refusal :=
  .next (s.startScroll s.cfg.wc.rightScroll 0x00 0x00 stop start)

/-- SCRDL (R161). -/
def execScrdl (stop start : Byte) (s : State) : Host.Outcome State Fault Refusal :=
  .next (s.startScroll s.cfg.wc.vertLeftScroll 0x01 s.cfg.scrollVinc stop start)

/-- SCRDR (R162). -/
def execScrdr (stop start : Byte) (s : State) : Host.Outcome State Fault Refusal :=
  .next (s.startScroll s.cfg.wc.vertRightScroll 0x01 s.cfg.scrollVinc stop start)

/-- SCRUP (R163): the code OP_SCROLL_UP, horizontal increment 0 (conflict C2). -/
def execScrup (stop start : Byte) (s : State) : Host.Outcome State Fault Refusal :=
  .next (s.startScroll s.cfg.opScrollUp 0x00 s.cfg.scrollVinc stop start)

/-- SCRSTOP (R164): deactivate-scroll, and the window marked full whatever the answer is (D24). -/
def execScrstop (s : State) : Host.Outcome State Fault Refusal :=
  .next (s.whenLc .active fun s =>
    match s.emit (wireTxn s.cfg.wc .wDeactivateScroll) with
    | .done s => s.markFull.deliver .ok
    | .failed s => s.markFull.deliver .eTransport
    | .waiting s => s)

end Sys2Proof.Machine
end

