-- ==== Sys2Proof/Machine/Sequencer.lean ====
section
/-! DEFINITION. The command sequencer: the panel configuration and STARTUP, DISPLAY, SHUTDOWN, ENDISP and INVDISP
(43_sequencer.md R130 to R150). -/

namespace Sys2Proof.Machine

/-- The COM-pin and contrast bytes of a geometry (R133): the row whose size matches exactly, else the default. The
contrast 0xCF of 128 x 64 on internal power and 0x8F of 128 x 32 are DOC0's and fixed. -/
def PanelTable.lookup (t : PanelTable) (g : Geometry) : PanelCell :=
  if g.width = 128 ∧ g.height = 64 then
    if g.extvcc then t.cell64External else ⟨t.compins64Internal, 0xCF⟩
  else if g.width = 128 ∧ g.height = 32 then
    ⟨if g.extvcc then t.compins32External else t.compins32Internal, 0x8F⟩
  else if g.width = t.third.1 ∧ g.height = t.third.2 then
    if g.extvcc then t.thirdExternal else t.thirdInternal
  else t.other

/-- `panelConfig` (R132). -/
def panelConfig (p : Params) : PanelConfig where
  mux := byteOf (p.geometry.height - 1)
  compins := (PanelTable.lookup p.panelTable p.geometry).compins
  contrast := (PanelTable.lookup p.panelTable p.geometry).contrast
  chargepump := if p.geometry.extvcc then p.wc.chargePumpExternal else p.wc.chargePumpInternal
  offset := p.panelTable.offset
  startline := p.panelTable.startline

/-- The precharge byte (30_encoding.md R87). -/
def prechargeByte (p : Params) : Byte :=
  if p.geometry.extvcc then p.wc.prechargeExternal else p.wc.prechargeInternal

/-- The sixteen commands of STARTUP before the splash, in the order of R135. -/
def startupCommands (p : Params) (c : PanelConfig) : List Instr :=
  [.wDisplayOff, .wSetClockDiv p.wc.clockDivValue, .wSetMultiplex c.mux, .wMemoryMode p.wc.memoryModeValue,
   .wSegRemap, .wComScanDec, .wSetVcomDeselect p.wc.vcomDeselectValue, .wChargePump c.chargepump,
   .wSetDisplayOffset c.offset, .wSetStartLine c.startline, .wSetComPins c.compins, .wSetContrast c.contrast,
   .wSetPrecharge (prechargeByte p), .wDisplayAllOnResume, .wNormalDisplay, .wDeactivateScroll]

/-- Transactions 1 to 16 of R135. -/
def startupTxns (p : Params) (c : PanelConfig) : List Txn := (startupCommands p c).map (wireTxn p.wc)

/-- The body of STARTUP in `Uninitialized` (R134): `Starting`, PCFG, transactions 1 to 16, the splash, a full
flush (R137), display-on, `Active`. -/
def State.startupBody (s : State) : Io :=
  let c := panelConfig s.cfg
  ((emitAll (startupTxns s.cfg c) { s with lc := .starting, pcfg := some c }).bind fun s =>
    s.applySplash.markFull.flush.bind fun s =>
      s.emit (wireTxn s.cfg.wc .wDisplayOn)).map fun s => { s with lc := .active }

/-- STARTUP (R134, R143): `Uninitialized` only. -/
def execStartup (s : State) : Host.Outcome State Fault Refusal :=
  .next (s.whenLc .uninitialized fun s => s.startupBody.finish)

/-- DISPLAY (R139, R144): Active only; FLUSH. A window outside the buffer, which no run produces, faults. -/
def execDisplay (s : State) : Host.Outcome State Fault Refusal :=
  if s.lc = .active ∧ s.dw.readable s.cfg.geometry = false then .fault .windowOutOfRange
  else .next (s.whenLc .active fun s => s.flush.finish)

/-- The transactions of SHUTDOWN (R140). -/
def shutdownTxns (wc : WireCodes) : List Txn :=
  [wireTxn wc .wDeactivateScroll, wireTxn wc .wDisplayOff, .release]

/-- SHUTDOWN (R140, R148): Active only; `ShuttingDown`, three transactions, `Stopped`. -/
def execShutdown (s : State) : Host.Outcome State Fault Refusal :=
  .next (s.whenLc .active fun s =>
    ((emitAll (shutdownTxns s.cfg.wc) { s with lc := .shuttingDown }).map fun s =>
      { s with lc := .stopped }).finish)

/-- ENDISP (R141): Active only; display-on or display-off; no state. -/
def execEndisp (b : Bool) (s : State) : Host.Outcome State Fault Refusal :=
  .next (s.whenLc .active fun s => s.issueWire (if b then .wDisplayOn else .wDisplayOff))

/-- INVDISP (R142): Active only; invert-display or normal-display; FB is not inverted. -/
def execInvdisp (b : Bool) (s : State) : Host.Outcome State Fault Refusal :=
  .next (s.whenLc .active fun s => s.issueWire (if b then .wInvertDisplay else .wNormalDisplay))

end Sys2Proof.Machine
end

