-- ==== Sys2Proof/Machine/Wire.lean ====
section
/-! DEFINITION. The wire commands of the table, each issued on its own as one transaction (30_encoding.md R70 to
R99): the row's bytes go to the transport, the answer decides the result, and no register of the block changes
(log entry 8). The host operations issue the same transactions through the same operations. -/

namespace Sys2Proof.Machine

/-- display-off (R74). -/
def execWDisplayOff (s : State) : Host.Outcome State Fault Refusal :=
  .next (s.issueWire .wDisplayOff)

/-- display-on (R75). -/
def execWDisplayOn (s : State) : Host.Outcome State Fault Refusal :=
  .next (s.issueWire .wDisplayOn)

/-- clock-divider (R76). -/
def execWSetClockDiv (a : Byte) (s : State) : Host.Outcome State Fault Refusal :=
  .next (s.issueWire (.wSetClockDiv a))

/-- multiplex-ratio (R77). -/
def execWSetMultiplex (a : Byte) (s : State) : Host.Outcome State Fault Refusal :=
  .next (s.issueWire (.wSetMultiplex a))

/-- memory-addressing-mode (R78). -/
def execWMemoryMode (a : Byte) (s : State) : Host.Outcome State Fault Refusal :=
  .next (s.issueWire (.wMemoryMode a))

/-- segment-remap (R79). -/
def execWSegRemap (s : State) : Host.Outcome State Fault Refusal :=
  .next (s.issueWire .wSegRemap)

/-- scan-direction (R80). -/
def execWComScanDec (s : State) : Host.Outcome State Fault Refusal :=
  .next (s.issueWire .wComScanDec)

/-- VCOM deselect level (R81). -/
def execWSetVcomDeselect (a : Byte) (s : State) : Host.Outcome State Fault Refusal :=
  .next (s.issueWire (.wSetVcomDeselect a))

/-- charge-pump (R82). -/
def execWChargePump (a : Byte) (s : State) : Host.Outcome State Fault Refusal :=
  .next (s.issueWire (.wChargePump a))

/-- display offset (R83). -/
def execWSetDisplayOffset (a : Byte) (s : State) : Host.Outcome State Fault Refusal :=
  .next (s.issueWire (.wSetDisplayOffset a))

/-- start line (R84). -/
def execWSetStartLine (l : BitVec 6) (s : State) : Host.Outcome State Fault Refusal :=
  .next (s.issueWire (.wSetStartLine l))

/-- COM-pin configuration (R85). -/
def execWSetComPins (a : Byte) (s : State) : Host.Outcome State Fault Refusal :=
  .next (s.issueWire (.wSetComPins a))

/-- contrast (R86). -/
def execWSetContrast (a : Byte) (s : State) : Host.Outcome State Fault Refusal :=
  .next (s.issueWire (.wSetContrast a))

/-- precharge timing (R87). -/
def execWSetPrecharge (a : Byte) (s : State) : Host.Outcome State Fault Refusal :=
  .next (s.issueWire (.wSetPrecharge a))

/-- display-all-on-resume (R88). -/
def execWDisplayAllOnResume (s : State) : Host.Outcome State Fault Refusal :=
  .next (s.issueWire .wDisplayAllOnResume)

/-- normal-display (R89). -/
def execWNormalDisplay (s : State) : Host.Outcome State Fault Refusal :=
  .next (s.issueWire .wNormalDisplay)

/-- invert-display (R90). -/
def execWInvertDisplay (s : State) : Host.Outcome State Fault Refusal :=
  .next (s.issueWire .wInvertDisplay)

/-- deactivate-scroll (R91). -/
def execWDeactivateScroll (s : State) : Host.Outcome State Fault Refusal :=
  .next (s.issueWire .wDeactivateScroll)

/-- activate-scroll (R92). -/
def execWActivateScroll (s : State) : Host.Outcome State Fault Refusal :=
  .next (s.issueWire .wActivateScroll)

/-- set-vertical-scroll-area (R93). -/
def execWSetVerticalScrollArea (a b : Byte) (s : State) : Host.Outcome State Fault Refusal :=
  .next (s.issueWire (.wSetVerticalScrollArea a b))

/-- right horizontal scroll (R94). -/
def execWRightScroll (a b c d e f g : Byte) (s : State) : Host.Outcome State Fault Refusal :=
  .next (s.issueWire (.wRightScroll a b c d e f g))

/-- left horizontal scroll (R95). -/
def execWLeftScroll (a b c d e f g : Byte) (s : State) : Host.Outcome State Fault Refusal :=
  .next (s.issueWire (.wLeftScroll a b c d e f g))

/-- vertical and right horizontal scroll (R96). -/
def execWVertRightScroll (a b c d e f g : Byte) (s : State) : Host.Outcome State Fault Refusal :=
  .next (s.issueWire (.wVertRightScroll a b c d e f g))

/-- vertical and left horizontal scroll (R97). -/
def execWVertLeftScroll (a b c d e f g : Byte) (s : State) : Host.Outcome State Fault Refusal :=
  .next (s.issueWire (.wVertLeftScroll a b c d e f g))

/-- column-address-range (R98). -/
def execWColumnAddr (a b : Byte) (s : State) : Host.Outcome State Fault Refusal :=
  .next (s.issueWire (.wColumnAddr a b))

/-- page-address-range (R99). -/
def execWPageAddr (a b : Byte) (s : State) : Host.Outcome State Fault Refusal :=
  .next (s.issueWire (.wPageAddr a b))

end Sys2Proof.Machine
end

