-- ==== Sys2Proof/Machine/Dispatch.lean ====
section
/-! DEFINITION. What each instruction does: one arm per constructor, each the call of one meaning. -/

namespace Sys2Proof.Machine

def exec (i : Instr) (s : State) : Host.Outcome State Fault Refusal :=
  match i with
  | .hrun c len y x => Sys2Proof.Machine.execHrun c len y x s
  | .vrun c len y x => Sys2Proof.Machine.execVrun c len y x s
  | .setrot q => Sys2Proof.Machine.execSetrot q s
  | .startup => Sys2Proof.Machine.execStartup s
  | .display => Sys2Proof.Machine.execDisplay s
  | .shutdown => Sys2Proof.Machine.execShutdown s
  | .endisp b => Sys2Proof.Machine.execEndisp b s
  | .invdisp b => Sys2Proof.Machine.execInvdisp b s
  | .scrl stop start => Sys2Proof.Machine.execScrl stop start s
  | .scrr stop start => Sys2Proof.Machine.execScrr stop start s
  | .scrdl stop start => Sys2Proof.Machine.execScrdl stop start s
  | .scrdr stop start => Sys2Proof.Machine.execScrdr stop start s
  | .scrup stop start => Sys2Proof.Machine.execScrup stop start s
  | .scrstop => Sys2Proof.Machine.execScrstop s
  | .wDisplayOff => Sys2Proof.Machine.execWDisplayOff s
  | .wDisplayOn => Sys2Proof.Machine.execWDisplayOn s
  | .wSetClockDiv a => Sys2Proof.Machine.execWSetClockDiv a s
  | .wSetMultiplex a => Sys2Proof.Machine.execWSetMultiplex a s
  | .wMemoryMode a => Sys2Proof.Machine.execWMemoryMode a s
  | .wSegRemap => Sys2Proof.Machine.execWSegRemap s
  | .wComScanDec => Sys2Proof.Machine.execWComScanDec s
  | .wSetVcomDeselect a => Sys2Proof.Machine.execWSetVcomDeselect a s
  | .wChargePump a => Sys2Proof.Machine.execWChargePump a s
  | .wSetDisplayOffset a => Sys2Proof.Machine.execWSetDisplayOffset a s
  | .wSetStartLine l => Sys2Proof.Machine.execWSetStartLine l s
  | .wSetComPins a => Sys2Proof.Machine.execWSetComPins a s
  | .wSetContrast a => Sys2Proof.Machine.execWSetContrast a s
  | .wSetPrecharge a => Sys2Proof.Machine.execWSetPrecharge a s
  | .wDisplayAllOnResume => Sys2Proof.Machine.execWDisplayAllOnResume s
  | .wNormalDisplay => Sys2Proof.Machine.execWNormalDisplay s
  | .wInvertDisplay => Sys2Proof.Machine.execWInvertDisplay s
  | .wDeactivateScroll => Sys2Proof.Machine.execWDeactivateScroll s
  | .wActivateScroll => Sys2Proof.Machine.execWActivateScroll s
  | .wSetVerticalScrollArea a b => Sys2Proof.Machine.execWSetVerticalScrollArea a b s
  | .wRightScroll a b c d e f g => Sys2Proof.Machine.execWRightScroll a b c d e f g s
  | .wLeftScroll a b c d e f g => Sys2Proof.Machine.execWLeftScroll a b c d e f g s
  | .wVertRightScroll a b c d e f g => Sys2Proof.Machine.execWVertRightScroll a b c d e f g s
  | .wVertLeftScroll a b c d e f g => Sys2Proof.Machine.execWVertLeftScroll a b c d e f g s
  | .wColumnAddr a b => Sys2Proof.Machine.execWColumnAddr a b s
  | .wPageAddr a b => Sys2Proof.Machine.execWPageAddr a b s

end Sys2Proof.Machine
end

