-- ==== Sys2Proof/Machine/Fetch.lean ====
section
/-! DEFINITION. What the block takes next: the host port's operation word, the reset line, or nothing (10_state.md
R22, R29, R32, 60_exceptions.md R180). -/

namespace Sys2Proof.Machine

/-- What a step finds. -/
inductive Fetched where
  /-- Nothing is presented: nothing happens (70_reset_and_hazards.md R195, 60_exceptions.md R179). -/
  | idle
  /-- The block waits for an answer that does not come (70_reset_and_hazards.md R207). -/
  | stuck
  /-- The reset line. -/
  | reset (s : State)
  /-- A word that is no instruction, answered E_ILLEGAL (60_exceptions.md R173). -/
  | illegal (s : State)
  /-- An instruction, accepted. -/
  | run (i : Instr) (s : State)
  /-- Bytes that are no wire command. -/
  | noCommand
deriving DecidableEq, Repr

/-- The next input. The reset line is heard at every operation boundary and while the block waits; a word only
when `op_ready` is 1. Decoding comes before everything else (R180). -/
def State.fetch (s : State) : Fetched :=
  match s.inputs with
  | [] => if s.opReady then .idle else .stuck
  | .rst :: rest => .reset { s.assertReset with inputs := rest }
  | .word w :: rest =>
    if s.opReady then
      match decode s.cfg w, w with
      | .ok i, _ => .run i (s.accept (some i) rest)
      | .error _, .host _ => .illegal ((s.accept none rest).deliver .eIllegal)
      | .error _, .wire _ => .noCommand
    else .stuck

/-- An instruction word presented next, before what the host presents later. -/
def State.present (w : InstrWord) (s : State) : State := { s with inputs := .word w :: s.inputs }

end Sys2Proof.Machine
end

