-- ==== Sys2Proof/Machine/Step.lean ====
section
/-! DEFINITION. One step: the next input is taken, and an operation runs to its end (00_scope.md R10). -/

namespace Sys2Proof.Machine

/-- One step of the block. -/
def step (s : State) : Host.Outcome State Fault Refusal :=
  match s.fetch with
  | .idle => .next s
  | .stuck => .fault .transportNeverAnswers
  | .reset s' => .next s'
  | .illegal s' => .next s'
  | .run i s' => exec i s'
  | .noCommand => .refused .notAWireCommand

/-- The instruction of a row's bits presented so that the next step runs it (log entries 7, 9). -/
def State.withFetchWord (s : State) (nbits w : Nat) : State := s.present (tableWord nbits w)

end Sys2Proof.Machine
end

