-- ==== Sys2Proof/Safety.lean ====
section
/-! DEFINITION. The terms claims are stated in: the invariant of the block, what answers the transport gives, the
state after transactions answered ok, and which registers an operation keeps. -/

namespace Sys2Proof.Machine

/-! ## The invariant -/

/-- FB in canonical form, every listed index in `0 .. FB_SIZE-1` (20_memory.md R37, R44). -/
abbrev State.FbWf (s : State) : Prop := Memory.wf s.cfg.geometry.fbSize (fbDefault s.cfg) s.fb = true

/-- DW is the sentinel or a box inside the buffer (10_state.md R16). -/
abbrev Window.Legal (g : Geometry) (w : Window) : Prop :=
  w = Window.sentinel g ∨
    (0 ≤ w.x1 ∧ w.x1 ≤ w.x2 ∧ w.x2 ≤ (g.width : Int) - 1 ∧
      0 ≤ w.y1 ∧ w.y1 ≤ w.y2 ∧ w.y2 ≤ (g.height : Int) - 1)

/-- The four registers of DW are signed numbers of `n` bits (10_state.md R15). -/
def Window.fits (n : Nat) (w : Window) : Bool :=
  fitsSigned n w.x1 && fitsSigned n w.y1 && fitsSigned n w.x2 && fitsSigned n w.y2

/-- What holds at every operation boundary, and while the block waits for an answer. -/
structure State.Inv (s : State) : Prop where
  /-- FB keeps its canonical form inside the buffer. -/
  fb_wf : s.FbWf
  /-- DW is the sentinel or a box inside the buffer (10_state.md R16). -/
  dw_legal : Window.Legal s.cfg.geometry s.dw
  /-- SEQ is idle, no transaction pends and no operand is latched when the host port is ready (R21, R29). -/
  ready_idle : s.opReady = true → s.seq = .idle ∧ s.bus = none ∧ s.latch = none
  /-- The host port is busy only while a transaction waits for its answer, and then no result stands (R30, R31). -/
  busy_waits : s.opReady = false → s.bus ≠ none ∧ s.latch ≠ none ∧ s.res = none
  /-- The operand latches hold numbers of COORD_W bits (R20). -/
  latch_fits : ∀ i, s.latch = some i → i.fits s.cfg.coordW = true
  /-- The DW registers hold numbers of COORD_W bits (R15). -/
  dw_fits : s.dw.fits s.cfg.coordW = true
  /-- PCFG is unwritten or what `panelConfig` gives (R19: immutable after STARTUP has computed it). -/
  pcfg_fixed : s.pcfg = none ∨ s.pcfg = some (panelConfig s.cfg)
  /-- PCFG is unwritten exactly in `Uninitialized` (R34, 43_sequencer.md R134). -/
  pcfg_unwritten : s.pcfg = none ↔ s.lc = .uninitialized
  /-- Nothing is drawn before STARTUP (43_sequencer.md R143, row 1). -/
  uninit_clean : s.lc = .uninitialized → s.dw = Window.sentinel s.cfg.geometry ∧ s.fb = []

/-! ## The transport -/

/-- The answer to the transaction `k` from now (60_exceptions.md R176). -/
def Transport.answer (t : Transport) (k : Nat) : Answer := t.script.getD k t.after

/-- The transport after `n` answers. -/
def Transport.drop (n : Nat) (t : Transport) : Transport := { t with script := t.script.drop n }

/-- The next `n` transactions are answered `ok`. -/
abbrev Transport.AllOk (n : Nat) (t : Transport) : Prop := ∀ k < n, t.answer k = .ok

/-- The next `n` transactions are answered `ok`, the one after them `fail`. -/
abbrev Transport.FailsAt (n : Nat) (t : Transport) : Prop := t.AllOk n ∧ t.answer n = .fail

/-- The next `n` transactions are answered `ok`, the one after them never (70_reset_and_hazards.md R207). -/
abbrev Transport.HangsAt (n : Nat) (t : Transport) : Prop := t.AllOk n ∧ t.answer n = .never

/-- The state after the transactions `ts`, all answered `ok`. -/
def State.sent (ts : List Txn) (s : State) : State :=
  { s with
    transport := s.transport.drop ts.length
    trace := s.trace ++ ts.map fun t => ⟨t, true⟩
    seq := ⟨s.seq.step + ts.length, s.seq.page⟩
    panel := ts.foldl (fun p t => p.delivered s.cfg.wc t) s.panel }

/-- The state after a transaction answered `fail`. -/
def State.sentFailed (t : Txn) (s : State) : State :=
  { s with
    transport := s.transport.drop 1
    trace := s.trace ++ [⟨t, false⟩]
    panel := s.panel.uncertain s.cfg.wc t }

/-- The state while the transaction `t` waits for an answer that does not come (70_reset_and_hazards.md R207). -/
def State.sentUnanswered (t : Txn) (s : State) : State :=
  { s with
    transport := s.transport.drop 1
    bus := some t
    opReady := false
    res := none
    panel := s.panel.uncertain s.cfg.wc t }

/-- All the transactions of a flush of the window `w` (43_sequencer.md R138). -/
def flushTxns (p : Params) (m : Memory) (w : Window) : List Txn := w.pages.flatMap (pageTxns p m w)

/-- The page-address-range and column-address-range commands and the data block of one page, byte by byte
(43_sequencer.md R138): page `pg`, columns `x1` to `x2`. -/
def pagePair (p : Params) (m : Memory) (x1 x2 pg : Nat) : List Txn :=
  [.cmdseq [p.wc.pageAddr, BitVec.ofNat 8 pg, BitVec.ofNat 8 pg, p.wc.columnAddr, BitVec.ofNat 8 x1,
      BitVec.ofNat 8 x2],
   .data ((List.range (x2 + 1 - x1)).map fun k => fbRead p m (pg * p.geometry.width + x1 + k))]

/-- The transactions of a flush of DW, byte by byte (R138): every page that meets rows y1 to y2, ascending. -/
def flushByRule (s : State) : List Txn :=
  (List.range' (s.dw.y1.toNat / 8) (s.dw.y2.toNat / 8 + 1 - s.dw.y1.toNat / 8)).flatMap
    (pagePair s.cfg s.fb s.dw.x1.toNat s.dw.x2.toNat)

/-- The transactions of STARTUP in the order of 43_sequencer.md R135, byte by byte, `m` the framebuffer after the
splash. -/
def startupByRule (p : Params) (m : Memory) : List Txn :=
  let wc := p.wc
  let c := panelConfig p
  [.cmd1 wc.displayOff,
   .cmdseq [wc.setClockDiv, wc.clockDivValue],
   .cmdseq [wc.setMultiplex, c.mux],
   .cmdseq [wc.memoryMode, wc.memoryModeValue],
   .cmd1 wc.segRemap,
   .cmd1 wc.comScanDec,
   .cmdseq [wc.setVcomDeselect, wc.vcomDeselectValue],
   .cmdseq [wc.chargePump, c.chargepump],
   .cmdseq [wc.setDisplayOffset, c.offset],
   .cmd1 (wc.setStartLine ||| c.startline.setWidth 8),
   .cmdseq [wc.setComPins, c.compins],
   .cmdseq [wc.setContrast, c.contrast],
   .cmdseq [wc.setPrecharge, if p.geometry.extvcc then wc.prechargeExternal else wc.prechargeInternal],
   .cmd1 wc.displayAllOnResume,
   .cmd1 wc.normalDisplay,
   .cmd1 wc.deactivateScroll] ++
  (List.range p.geometry.pages).flatMap (pagePair p m 0 (p.geometry.width - 1)) ++
  [.cmd1 wc.displayOn]

/-- The transactions of a start-scroll operation, byte by byte (44_scroll.md R158). -/
def scrollByRule (p : Params) (dircode hinc vinc stop start : Byte) : List Txn :=
  [.cmd1 p.wc.deactivateScroll,
   .cmdseq [p.wc.setVerticalScrollArea, 0x00, BitVec.ofNat 8 p.geometry.height],
   .cmdseq [dircode, hinc, start, p.scrollFrameRate, stop, vinc, 0x00, BitVec.ofNat 8 (p.geometry.width - 1)],
   .cmd1 p.wc.activateScroll]

/-! ## Pixels -/

/-- The physical pixel `(px, py)` belongs to the clipped run (40_framebuffer.md R102, R103). -/
def Covers (g : Geometry) (k : RunKind) (x y len : Int) (px py : Nat) : Prop :=
  px < g.width ∧ py < g.height ∧
    match k with
    | .horizontal => (py : Int) = y ∧ x ≤ px ∧ (px : Int) < x + len
    | .vertical => (px : Int) = x ∧ y ≤ py ∧ (py : Int) < y + len

/-- The physical pixel `(px, py)` is the image of a logical pixel of the run (42_rotation.md R124). -/
def Images (g : Geometry) (q : Rotation) (k : RunKind) (x y len : Int) (px py : Nat) : Prop :=
  ∃ i : Int, 0 ≤ i ∧ i < len ∧
    match k with
    | .horizontal => g.pointMap q (x + i) y = ((px : Int), (py : Int))
    | .vertical => g.pointMap q x (y + i) = ((px : Int), (py : Int))

/-- From `s` to `t` exactly the pixels of the set take the colour; every other bit of every byte is as before. -/
def Paints (c : Colour) (set : Nat → Nat → Prop) (s t : State) : Prop :=
  (∀ px py, px < s.cfg.geometry.width →
    (set px py → pixel s.cfg t.fb px py = c.bit (pixel s.cfg s.fb px py)) ∧
      (¬ set px py → pixel s.cfg t.fb px py = pixel s.cfg s.fb px py)) ∧
  ∀ i, (∀ px py, set px py → s.cfg.geometry.index px py ≠ i) → fbRead s.cfg t.fb i = fbRead s.cfg s.fb i

/-- DW contains a pixel. -/
def Window.Contains (w : Window) (px py : Nat) : Prop :=
  w.x1 ≤ px ∧ (px : Int) ≤ w.x2 ∧ w.y1 ≤ py ∧ (py : Int) ≤ w.y2

/-- Primitive calls in order, as SPLASH and drawing make them. -/
def State.runCalls (cs : List PrimCall) (s : State) : State :=
  cs.foldl (fun s c => s.runPrim c.kind c.x c.y c.length c.colour) s

/-- Two contents of FB that agree on every byte of the buffer. -/
def SameInside (p : Params) (m n : Memory) : Prop := ∀ i < p.geometry.fbSize, fbRead p m i = fbRead p n i

/-- Some call of the list draws the pixel. -/
def Drawn (g : Geometry) (cs : List PrimCall) (px py : Nat) : Prop :=
  ∃ c ∈ cs, Covers g c.kind c.x c.y c.length px py

/-! ## Frames -/

/-- The registers of the block are the same: FB, DW, ROT, LC, PCFG, and the parameters. -/
structure SameRegisters (s t : State) : Prop where
  cfg : t.cfg = s.cfg
  fb : t.fb = s.fb
  dw : t.dw = s.dw
  rot : t.rot = s.rot
  lc : t.lc = s.lc
  pcfg : t.pcfg = s.pcfg

/-- Nothing was sent: the trace, the transport, the bus and the panel are the same. -/
structure NoTraffic (s t : State) : Prop where
  trace : t.trace = s.trace
  transport : t.transport = s.transport
  panel : t.panel = s.panel

/-- The operation has ended with the code `r`: it is delivered, once, and the block is at a boundary (10_state.md
R30, R21). -/
structure Ended (r : ResultCode) (s t : State) : Prop where
  res : t.res = some r
  results : t.results = s.results ++ [r]
  ready : t.opReady = true
  seq : t.seq = .idle
  bus : t.bus = none
  latch : t.latch = none

/-- The operation has not ended: a transaction waits for an answer that does not come (70_reset_and_hazards.md
R207). -/
structure Waits (s t : State) : Prop where
  busy : t.opReady = false
  bus : t.bus ≠ none
  res : t.res = none
  results : t.results = s.results

/-- Whichever of the transactions `ts` is never answered, the ones before it answered `ok`, `i` does not end: it waits
with that transaction on the bus port (70_reset_and_hazards.md R207). -/
def WaitsAtEach (i : Instr) (s : State) (ts : List Txn) : Prop :=
  ∀ k < ts.length, s.transport.HangsAt k →
    ∃ t, exec i s = .next t ∧ Waits s t ∧ t.bus = ts[k]? ∧ t.trace = s.trace ++ (ts.take k).map fun x => ⟨x, true⟩

/-- A host word that is no instruction is answered E_ILLEGAL, with nothing changed and nothing sent
(60_exceptions.md R173). -/
def MalformedRejected (s : State) : Prop :=
  ∀ w rest e, s.inputs = .word (.host w) :: rest → s.opReady = true → decodeHost w = .error e →
    ∃ t, step s = .next t ∧ SameRegisters s t ∧ NoTraffic s t ∧ Ended .eIllegal s t ∧ t.inputs = rest

/-- The operation is refused by the lifecycle: E_USAGE, with nothing changed and nothing sent (60_exceptions.md
R171). -/
def UsageRejected (i : Instr) (s : State) : Prop :=
  ∃ t, exec i s = .next t ∧ SameRegisters s t ∧ NoTraffic s t ∧ Ended .eUsage s t ∧ t.inputs = s.inputs

/-- The rows of spec/opcode_table.json for host operations: match, mask, and whether the format is D. -/
def hostRows : List (OpWord × OpWord × Bool) :=
  [(0x0100000000000000, 0xFF3F000000000000, true), (0x0200000000000000, 0xFF3F000000000000, true),
   (0x0300000000000000, 0xFFFFFFFFFFFFFFFC, false), (0x1000000000000000, 0xFFFFFFFFFFFFFFFF, false),
   (0x1100000000000000, 0xFFFFFFFFFFFFFFFF, false), (0x1200000000000000, 0xFFFFFFFFFFFFFFFF, false),
   (0x1300000000000000, 0xFFFFFFFFFFFFFFFE, false), (0x1400000000000000, 0xFFFFFFFFFFFFFFFE, false),
   (0x2000000000000000, 0xFFFFFFFFFFFF0000, false), (0x2100000000000000, 0xFFFFFFFFFFFF0000, false),
   (0x2200000000000000, 0xFFFFFFFFFFFF0000, false), (0x2300000000000000, 0xFFFFFFFFFFFF0000, false),
   (0x2400000000000000, 0xFFFFFFFFFFFF0000, false), (0x2500000000000000, 0xFFFFFFFFFFFFFFFF, false)]

/-- The state but for the panel. -/
def State.blockOnly (s : State) : State := { s with panel := .unknown }

/-- Every reason the outcome may be, with the panel left out of the state. -/
def outcomeBlock (o : Host.Outcome State Fault Refusal) : Host.Outcome State Fault Refusal :=
  match o with
  | .next s => .next s.blockOnly
  | .fault f => .fault f
  | .refused r => .refused r

end Sys2Proof.Machine
end

