-- ==== Sys2Proof/Certificates/Slice0/Obligations.lean ====
section
/-! DEFINITION. The statements for the provers. Each docstring names what of the spec it formalises; `t` is the next
state throughout. Where a clause rests on a decision of the spec's own (D<n>) or on a log entry, the docstring
says so. -/

open Sys2Proof Sys2Proof.Machine

/-! ## Reset -/

/-- 10_state.md section 10 (table of R33) for every choice of the parameters. DOC0 fixes the empty window and
`Uninitialized`; FB_RESET, ROT = 0 and the sentinel's numbers are the spec's decisions D10, D11, D8. -/
def Obligations.ResetLeavesTheResetTable : Prop :=
  State.reset = State.resetWith Params.default ∧
  ∀ p : Params, let s := State.resetWith p
    (∀ i, fbRead p s.fb i = p.fbReset.getD i 0) ∧
    s.dw = ⟨p.geometry.width, p.geometry.height, -1, -1⟩ ∧ s.rot = .deg0 ∧ s.lc = .uninitialized ∧
    s.pcfg = none ∧ s.seq = ⟨0, 0⟩ ∧ s.opReady = true ∧ s.res = none ∧ s.bus = none

/-- 70_reset_and_hazards.md section 1 (R193, R194, R209; decision D30): the reset line puts the block at the reset
table in every lifecycle state and while it waits for the transport, delivers no result, sends nothing and does
not reach the panel. -/
def Obligations.ResetLineResetsFromEveryState : Prop :=
  ∀ (s : State) (rest : List Input), s.inputs = .rst :: rest →
    ∃ t, step s = .next t ∧ t.cfg = s.cfg ∧ (∀ i, fbRead s.cfg t.fb i = s.cfg.fbReset.getD i 0) ∧
      t.dw = Window.sentinel s.cfg.geometry ∧ t.rot = .deg0 ∧ t.lc = .uninitialized ∧ t.pcfg = none ∧
      t.seq = .idle ∧ t.opReady = true ∧ t.res = none ∧ t.bus = none ∧ t.latch = none ∧ t.inputs = rest ∧
      t.results = s.results ∧ NoTraffic s t

/-- 00_scope.md R6 and 60_exceptions.md R191 (decision D7): a block is built exactly for the legal geometries, and
is then in its reset state; every other geometry, a negative one among them, is refused. -/
def Obligations.ConstructRefusesMalformedGeometry : Prop :=
  ∀ (p : Params) (w h : Int) (e : Bool),
    ((1 ≤ w ∧ w ≤ 128 ∧ 1 ≤ h ∧ h ≤ 64) →
      ∃ t, construct p w h e = .next t ∧ (t.cfg.geometry.width : Int) = w ∧ (t.cfg.geometry.height : Int) = h ∧
        t.cfg.geometry.extvcc = e ∧ t = State.resetWith t.cfg) ∧
    (¬ (1 ≤ w ∧ w ≤ 128 ∧ 1 ≤ h ∧ h ≤ 64) → construct p w h e = .refused .malformedGeometry)

/-! ## Encoding -/

/-- 30_encoding.md part 1 (R55 to R63, R69; decision D4): decoding the encoding of a well-formed host operation
gives it back, every operand at every value its field admits. -/
def Obligations.HostDecodeInvertsEncode : Prop :=
  ∀ (p : Params) (i : Instr), i.isHost = true → i.wellFormed = true → decode p (encode p.wc i) = .ok i

/-- 30_encoding.md part 2 (R71 to R99): for every code record that tells the commands apart, decoding the bytes of
a wire command gives it back. -/
def Obligations.WireDecodeInvertsEncode : Prop :=
  ∀ p : Params, p.wc.Decodable → ∀ i : Instr, i.isHost = false → decode p (encode p.wc i) = .ok i

/-- 30_encoding.md R64: a host word that decodes carries a well-formed operation and is that operation's encoding:
every legal word has one meaning and no bit is dropped. -/
def Obligations.HostEncodeInvertsDecode : Prop :=
  ∀ (p : Params) (w : OpWord) (i : Instr), decodeHost w = .ok i →
    i.isHost = true ∧ i.wellFormed = true ∧ encode p.wc i = .host w

/-- 30_encoding.md R63, R64 (decision D31) against the match and mask of spec/opcode_table.json: a host word is
legal exactly when it matches a row and, in format D, its colour code is not 3. -/
def Obligations.LegalWordsAreTheTablesRows : Prop :=
  ∀ w : OpWord, (∃ i, decodeHost w = .ok i) ↔
    ∃ r ∈ hostRows, w &&& r.2.1 = r.1 ∧ (r.2.2 = true → w.extractLsb' 54 2 ≠ 3)

/-- Words written out from spec/95_test_vectors.md section 2.9 and 2.8 and from the wire rows of the table. The three
wire rows rest on log entry 9 (a row's number has the code byte in its highest bits, DEDUCED) and on the default
codes of log entry 18 (PRESUMED, decision D20). -/
def Obligations.WrittenOutWordsDecode : Prop :=
  decodeHost 0x0140000A0000FFFB = .ok (.hrun .white 10 0 (-5)) ∧
  decodeHost 0x02400006FFFC0003 = .ok (.vrun .white 6 (-4) 3) ∧
  decodeHost 0x0300000000000003 = .ok (.setrot .deg270) ∧
  decodeHost 0x1100000000000000 = .ok .display ∧
  decodeHost 0x1300000000000001 = .ok (.endisp true) ∧
  decodeHost 0x2000000000000502 = .ok (.scrl 5 2) ∧
  decodeHost 0x01C0000100000000 = .error .reservedColour ∧
  decodeHost 0x2600000000000000 = .error .unknownOpcode ∧
  decodeTableWord 16 0xD580 = some (.wSetClockDiv 0x80) ∧
  decodeTableWord 24 0x210A0D = some (.wColumnAddr 0x0A 0x0D) ∧
  decodeTableWord 64 0x270000000F00007F = some (.wLeftScroll 0 0 0 0x0F 0 0 0x7F)

/-! ## The step -/

/-- A word presented at a boundary that decodes is run: the step is exec of its instruction on the state in which
the host port has taken the word (10_state.md R22, R29, 60_exceptions.md R180). The model's own choices in it: the
list of inputs (log entry 7), the bytes of a wire command as a word presented (log entry 8), the one latch field
(log entry 25), and that no result stands once a word is taken (log entry 26). -/
def Obligations.StepRunsTheDecodedInstruction : Prop :=
  ∀ (s : State) (w : InstrWord) (rest : List Input) (i : Instr),
    s.inputs = .word w :: rest → s.opReady = true → decode s.cfg w = .ok i →
      step s = exec i { s with inputs := rest, opReady := false, res := none, latch := some i }

/-- 60_exceptions.md R173 (decisions D4, D31) and R180: a host word that is no operation ends with E_ILLEGAL in
every lifecycle state, changes no register and sends nothing. -/
def Obligations.IllegalWordEndsIllegal : Prop := ∀ s : State, MalformedRejected s

/-- 70_reset_and_hazards.md R195, R207: nothing happens while nothing is presented, and a block that waits for an
answer that does not come is stuck until the reset line (decision D27, log entry 5). -/
def Obligations.NothingPresentedNothingHappens : Prop :=
  ∀ s : State, (s.opReady = true → s.inputs = [] → step s = .next s) ∧
    (s.opReady = false → (∀ rest, s.inputs ≠ .rst :: rest) → step s = .fault .transportNeverAnswers)

/-- 70_reset_and_hazards.md R207 and 60_exceptions.md R176 (decision D27, log entry 5): whichever transaction of an
operation is the first not answered, those before it answered ok, the operation does not end: op_ready 0, that
transaction on the bus port, no result, the trace as far as it was answered. The lists are those of R135, R138, R140,
44_scroll.md R158 with the constants of R157 (decisions D17, D22); that a wire command runs on its own is log
entry 8. -/
def Obligations.UnansweredTransactionLeavesTheBlockWaiting : Prop :=
  ∀ s : State,
    (s.lc = .uninitialized → WaitsAtEach .startup s (startupByRule s.cfg (s.runCalls s.cfg.splash).fb)) ∧
    (s.lc = .active → s.dw.isEmpty = false → Window.Legal s.cfg.geometry s.dw →
      WaitsAtEach .display s (flushByRule s)) ∧
    (s.lc = .active →
      WaitsAtEach .shutdown s [.cmd1 s.cfg.wc.deactivateScroll, .cmd1 s.cfg.wc.displayOff, .release] ∧
      WaitsAtEach .scrstop s [.cmd1 s.cfg.wc.deactivateScroll] ∧
      (∀ b : Bool,
        WaitsAtEach (.endisp b) s [.cmd1 (if b then s.cfg.wc.displayOn else s.cfg.wc.displayOff)] ∧
        WaitsAtEach (.invdisp b) s [.cmd1 (if b then s.cfg.wc.invertDisplay else s.cfg.wc.normalDisplay)]) ∧
      ∀ a b : Byte,
        WaitsAtEach (.scrl a b) s (scrollByRule s.cfg s.cfg.wc.leftScroll 0 0 a b) ∧
        WaitsAtEach (.scrr a b) s (scrollByRule s.cfg s.cfg.wc.rightScroll 0 0 a b) ∧
        WaitsAtEach (.scrdl a b) s (scrollByRule s.cfg s.cfg.wc.vertLeftScroll 1 s.cfg.scrollVinc a b) ∧
        WaitsAtEach (.scrdr a b) s (scrollByRule s.cfg s.cfg.wc.vertRightScroll 1 s.cfg.scrollVinc a b) ∧
        WaitsAtEach (.scrup a b) s (scrollByRule s.cfg s.cfg.opScrollUp 0 s.cfg.scrollVinc a b)) ∧
    ∀ i : Instr, i.isHost = false → WaitsAtEach i s [commandTxn (encode s.cfg.wc i).bytes]

/-! ## Framebuffer and primitives -/

/-- 40_framebuffer.md R101. -/
def Obligations.ColourOperation : Prop :=
  ∀ (b m : Byte), Colour.apply .white b m = b ||| m ∧ Colour.apply .black b m = b &&& ~~~m ∧
    Colour.apply .inverse b m = b ^^^ m ∧
    (∀ (c : Colour) (k : Nat), m.getLsbD k = false → (c.apply b m).getLsbD k = b.getLsbD k) ∧
    ∀ y k : Nat, (bitmask y).getLsbD k = decide (k = y % 8)

/-- 20_memory.md R35 to R38: every pixel of the panel has an index inside FB, and the decoder and its inverse agree
on every byte and bit. -/
def Obligations.AddressDecoderIsABijection : Prop :=
  ∀ g : Geometry,
    (∀ x y, x < g.width → y < g.height →
      g.index x y < g.fbSize ∧ g.pixelOf (g.index x y) (y % 8) = (x, y)) ∧
    ∀ i k, i < g.fbSize → k < 8 →
      (g.pixelOf i k).1 < g.width ∧ g.index (g.pixelOf i k).1 (g.pixelOf i k).2 = i ∧ (g.pixelOf i k).2 % 8 = k

/-- 40_framebuffer.md R102: FB_HRUN paints exactly the clipped run, expands DW by it when it is not empty, and
changes nothing else. -/
def Obligations.HorizontalPrimitive : Prop :=
  ∀ (s : State) (x y len : Int) (c : Colour), s.FbWf →
    Paints c (Covers s.cfg.geometry .horizontal x y len) s (s.fbHrun x y len c) ∧
    (s.fbHrun x y len c).dw =
      (if 0 ≤ y ∧ y < s.cfg.geometry.height ∧ max x 0 < min (x + len) s.cfg.geometry.width then
        ⟨min s.dw.x1 (max x 0), min s.dw.y1 y, max s.dw.x2 (min (x + len) s.cfg.geometry.width - 1),
          max s.dw.y2 y⟩
      else s.dw) ∧
    s.fbHrun x y len c = { s with fb := (s.fbHrun x y len c).fb, dw := (s.fbHrun x y len c).dw }

/-- 40_framebuffer.md R103: FB_VRUN, the same with the axes exchanged. -/
def Obligations.VerticalPrimitive : Prop :=
  ∀ (s : State) (x y len : Int) (c : Colour), s.FbWf →
    Paints c (Covers s.cfg.geometry .vertical x y len) s (s.fbVrun x y len c) ∧
    (s.fbVrun x y len c).dw =
      (if 0 ≤ x ∧ x < s.cfg.geometry.width ∧ max y 0 < min (y + len) s.cfg.geometry.height then
        ⟨min s.dw.x1 x, min s.dw.y1 (max y 0), max s.dw.x2 x,
          max s.dw.y2 (min (y + len) s.cfg.geometry.height - 1)⟩
      else s.dw) ∧
    s.fbVrun x y len c = { s with fb := (s.fbVrun x y len c).fb, dw := (s.fbVrun x y len c).dw }

/-- 40_framebuffer.md R105, R106: the byte-level decomposition of FB_VRUN with its mask tables is its pixel-level
meaning. -/
def Obligations.ByteDecompositionEqualsPixelMeaning : Prop :=
  ∀ (s : State) (x y len : Int) (c : Colour), s.FbWf → s.fbVrunBytes x y len c = s.fbVrun x y len c

/-- 40_framebuffer.md R107: clipping is silent and exact, and a call with `length <= 0` or wholly outside changes
neither FB nor DW, nor anything else. -/
def Obligations.EmptyRunsChangeNothing : Prop :=
  ∀ (s : State) (k : RunKind) (x y len : Int) (c : Colour),
    (s.FbWf → Paints c (Covers s.cfg.geometry k x y len) s (s.runPrim k x y len c)) ∧
    ((len ≤ 0 ∨ ∀ px py, ¬ Covers s.cfg.geometry k x y len px py) → s.runPrim k x y len c = s)

/-- 40_framebuffer.md R109, R110: after WHITE a pixel is 1 and after BLACK 0, whatever was drawn before; INVERSE
twice restores FB; WHITE and BLACK runs are idempotent on FB, every run on DW. -/
def Obligations.ToggleParityAndIdempotence : Prop :=
  ∀ (s : State) (cs : List PrimCall) (k : RunKind) (x y len : Int), s.FbWf →
    (∀ px py, Covers s.cfg.geometry k x y len px py →
      pixel s.cfg ((s.runCalls cs).runPrim k x y len .white).fb px py = true ∧
      pixel s.cfg ((s.runCalls cs).runPrim k x y len .black).fb px py = false) ∧
    ((s.runPrim k x y len .inverse).runPrim k x y len .inverse).fb = s.fb ∧
    ∀ c : Colour, ((s.runPrim k x y len c).runPrim k x y len c).dw = (s.runPrim k x y len c).dw ∧
      (c ≠ .inverse → ((s.runPrim k x y len c).runPrim k x y len c).fb = (s.runPrim k x y len c).fb)

/-! ## The dirty window -/

/-- 41_dirty_window.md R113. -/
def Obligations.ExpandIsTheUnion : Prop :=
  ∀ (w : Window) (x1 y1 x2 y2 : Int),
    w.expand x1 y1 x2 y2 = ⟨min w.x1 x1, min w.y1 y1, max w.x2 x2, max w.y2 y2⟩ ∧
    (w.x1 ≤ x1 → w.y1 ≤ y1 → x2 ≤ w.x2 → y2 ≤ w.y2 → w.expand x1 y1 x2 y2 = w) ∧
    ∀ g : Geometry, 0 ≤ x1 → x1 ≤ x2 → x2 ≤ (g.width : Int) - 1 → 0 ≤ y1 → y1 ≤ y2 → y2 ≤ (g.height : Int) - 1 →
      (Window.sentinel g).expand x1 y1 x2 y2 = ⟨x1, y1, x2, y2⟩

/-- 41_dirty_window.md R115, R116 (decisions D8, D33): under the invariant of R16 the width test tells exactly the
sentinel. -/
def Obligations.EmptyIsTheSentinel : Prop :=
  ∀ (g : Geometry) (w : Window), Window.Legal g w → (w.isEmpty = true ↔ w = ⟨g.width, g.height, -1, -1⟩)

/-- 41_dirty_window.md R119: from the empty window, DW is the bounding box of everything drawn, or the sentinel when
nothing was; after a flush it is empty and a further flush sends nothing. -/
def Obligations.WindowIsTheExactBoundingBox : Prop :=
  ∀ (s : State) (cs : List PrimCall), s.dw = Window.sentinel s.cfg.geometry →
    (∀ px py, Drawn s.cfg.geometry cs px py → (s.runCalls cs).dw.Contains px py) ∧
    (((s.runCalls cs).dw = Window.sentinel s.cfg.geometry ∧ ∀ px py, ¬ Drawn s.cfg.geometry cs px py) ∨
      ((∃ px py, Drawn s.cfg.geometry cs px py ∧ (s.runCalls cs).dw.x1 = px) ∧
       (∃ px py, Drawn s.cfg.geometry cs px py ∧ (s.runCalls cs).dw.y1 = py) ∧
       (∃ px py, Drawn s.cfg.geometry cs px py ∧ (s.runCalls cs).dw.x2 = px) ∧
       (∃ px py, Drawn s.cfg.geometry cs px py ∧ (s.runCalls cs).dw.y2 = py))) ∧
    ∀ t, (s.runCalls cs).flush = .done t → t.dw = Window.sentinel s.cfg.geometry ∧ t.flush = .done t

/-- 40_framebuffer.md R111: DW does not depend on the order of the drawing calls. -/
def Obligations.WindowForgetsTheDrawingOrder : Prop :=
  ∀ (s : State) (cs ds : List PrimCall), cs.Perm ds → (s.runCalls cs).dw = (s.runCalls ds).dw

/-- 41_dirty_window.md R117: no instruction shrinks DW but by resetting it to the sentinel. -/
def Obligations.WindowOnlyGrowsUntilReset : Prop :=
  ∀ (i : Instr) (s t : State), Window.Legal s.cfg.geometry s.dw → exec i s = .next t →
    t.dw = Window.sentinel s.cfg.geometry ∨
      (t.dw.x1 ≤ s.dw.x1 ∧ t.dw.y1 ≤ s.dw.y1 ∧ s.dw.x2 ≤ t.dw.x2 ∧ s.dw.y2 ≤ t.dw.y2)

/-! ## Drawing operations and the mapper -/

/-- 42_rotation.md R121 and R127: HRUN by the value of ROT, with WIDTH and HEIGHT physical; OK, nothing else
written, nothing sent; E_USAGE outside Active. The encoding (format D, opcode 0x01) is decision D4, E_ILLEGAL for a
malformed word D31. -/
def Obligations.HorizontalRunByRotation : Prop :=
  ∀ (s : State) (c : Colour) (len y x : Int),
    ((Instr.hrun c len y x).wellFormed = true →
      decodeHost (wordD 0x01 c len y x) = .ok (.hrun c len y x)) ∧
    (s.lc = .active → ∃ t, exec (.hrun c len y x) s = .next t ∧ Ended .ok s t ∧ NoTraffic s t ∧
      t.cfg = s.cfg ∧ t.rot = s.rot ∧ t.lc = s.lc ∧ t.pcfg = s.pcfg ∧ t.inputs = s.inputs ∧
      let W : Int := s.cfg.geometry.width
      let H : Int := s.cfg.geometry.height
      let u := match s.rot with
        | .deg0 => s.fbHrun x y len c
        | .deg90 => s.fbVrun (W - 1 - y) x len c
        | .deg180 => s.fbHrun (W - 1 - x - (len - 1)) (H - 1 - y) len c
        | .deg270 => s.fbVrun y (H - 1 - x - (len - 1)) len c
      t.fb = u.fb ∧ t.dw = u.dw ∧ (len ≤ 0 → t.fb = s.fb ∧ t.dw = s.dw)) ∧
    (s.lc ≠ .active → UsageRejected (.hrun c len y x) s) ∧ MalformedRejected s

/-- 42_rotation.md R122 and R127: VRUN, the same by its own table; format D, opcode 0x02 (decisions D4, D31 as for
HRUN). -/
def Obligations.VerticalRunByRotation : Prop :=
  ∀ (s : State) (c : Colour) (len y x : Int),
    ((Instr.vrun c len y x).wellFormed = true →
      decodeHost (wordD 0x02 c len y x) = .ok (.vrun c len y x)) ∧
    (s.lc = .active → ∃ t, exec (.vrun c len y x) s = .next t ∧ Ended .ok s t ∧ NoTraffic s t ∧
      t.cfg = s.cfg ∧ t.rot = s.rot ∧ t.lc = s.lc ∧ t.pcfg = s.pcfg ∧ t.inputs = s.inputs ∧
      let W : Int := s.cfg.geometry.width
      let H : Int := s.cfg.geometry.height
      let u := match s.rot with
        | .deg0 => s.fbVrun x y len c
        | .deg90 => s.fbHrun (W - 1 - y - (len - 1)) x len c
        | .deg180 => s.fbVrun (W - 1 - x) (H - 1 - y - (len - 1)) len c
        | .deg270 => s.fbHrun y (H - 1 - x) len c
      t.fb = u.fb ∧ t.dw = u.dw ∧ (len ≤ 0 → t.fb = s.fb ∧ t.dw = s.dw)) ∧
    (s.lc ≠ .active → UsageRejected (.vrun c len y x) s) ∧ MalformedRejected s

/-- 42_rotation.md R124, R125: at every rotation HRUN and VRUN paint exactly the physical images of the logical
pixels of the run that lie in the buffer, and leave every other bit of FB as it was. -/
def Obligations.RunsPaintTheirPointImages : Prop :=
  ∀ (s : State) (k : RunKind) (c : Colour) (len y x : Int), s.FbWf → s.lc = .active →
    ∃ t, (match k with | .horizontal => exec (.hrun c len y x) s | .vertical => exec (.vrun c len y x) s) = .next t ∧
      Paints c (fun px py => px < s.cfg.geometry.width ∧ py < s.cfg.geometry.height ∧
        Images s.cfg.geometry s.rot k x y len px py) s t

/-- 42_rotation.md R126, R128: the point map takes the logical extent one to one onto the physical buffer. -/
def Obligations.PointMapIsABijection : Prop :=
  ∀ (g : Geometry) (q : Rotation),
    (∀ x y x' y' : Int, g.pointMap q x y = g.pointMap q x' y' → x = x' ∧ y = y') ∧
    (∀ x y : Int, g.inside (g.pointMap q x y).1 (g.pointMap q x y).2 = true ↔
      0 ≤ x ∧ x < (g.logicalExtent q).1 ∧ 0 ≤ y ∧ y < (g.logicalExtent q).2) ∧
    ∀ px py : Int, ∃ x y : Int, g.pointMap q x y = (px, py)

/-- 42_rotation.md R123 and 10_state.md R17 (decision D12: in every lifecycle state): SETROT writes ROT alone. -/
def Obligations.SetRotationWritesRotAlone : Prop :=
  ∀ (s : State) (q : Rotation), ∃ t, exec (.setrot q) s = .next t ∧ t.rot = q ∧ Ended .ok s t ∧ NoTraffic s t ∧
    t.cfg = s.cfg ∧ t.fb = s.fb ∧ t.dw = s.dw ∧ t.lc = s.lc ∧ t.pcfg = s.pcfg ∧ t.inputs = s.inputs

/-- The frame of HRUN and VRUN in every lifecycle state (20_memory.md R37, R49, 70_reset_and_hazards.md R206): only
FB and DW of the registers, no traffic, and of FB only the bytes of physical images of the run. -/
def Obligations.DrawingFrame : Prop :=
  ∀ (s t : State) (k : RunKind) (c : Colour) (len y x : Int),
    (match k with | .horizontal => exec (.hrun c len y x) s | .vertical => exec (.vrun c len y x) s) = .next t →
    t.cfg = s.cfg ∧ t.rot = s.rot ∧ t.lc = s.lc ∧ t.pcfg = s.pcfg ∧ t.inputs = s.inputs ∧ NoTraffic s t ∧
    ∀ i, (∀ px py, px < s.cfg.geometry.width → py < s.cfg.geometry.height →
        Images s.cfg.geometry s.rot k x y len px py → s.cfg.geometry.index px py ≠ i) →
      fbRead s.cfg t.fb i = fbRead s.cfg s.fb i

/-- 20_memory.md R53: no instruction writes the bits of FB below the last row of the panel. -/
def Obligations.PadBitsAreNeverWritten : Prop :=
  ∀ (i : Instr) (s t : State), s.FbWf → exec i s = .next t →
    ∀ px py, px < s.cfg.geometry.width → s.cfg.geometry.height ≤ py →
      pixel s.cfg t.fb px py = pixel s.cfg s.fb px py

/-! ## Errors and the lifecycle -/

/-- 60_exceptions.md R171 with the table of R181: an operation the lifecycle does not accept ends with E_USAGE, no
state change and no transaction. -/
def Obligations.UsageErrorChangesNothing : Prop :=
  ∀ (i : Instr) (s : State), accepts i s.lc = false → UsageRejected i s

/-- 60_exceptions.md section 5, the table of R181 (decisions D12, D15, D16, D25), row by row. -/
def Obligations.LifecycleTable : Prop :=
  ∀ l : Lifecycle,
    (accepts .startup l = decide (l = .uninitialized)) ∧
    (∀ c len y x, accepts (.hrun c len y x) l = decide (l = .active) ∧
      accepts (.vrun c len y x) l = decide (l = .active)) ∧
    (accepts .display l = decide (l = .active)) ∧
    (∀ b, accepts (.endisp b) l = decide (l = .active) ∧ accepts (.invdisp b) l = decide (l = .active)) ∧
    (∀ a b, accepts (.scrl a b) l = decide (l = .active) ∧ accepts (.scrr a b) l = decide (l = .active) ∧
      accepts (.scrdl a b) l = decide (l = .active) ∧ accepts (.scrdr a b) l = decide (l = .active) ∧
      accepts (.scrup a b) l = decide (l = .active)) ∧
    (accepts .scrstop l = decide (l = .active)) ∧ (accepts .shutdown l = decide (l = .active)) ∧
    ∀ q, accepts (.setrot q) l = true

/-- 60_exceptions.md R178: which host operation can end with which code; E_ILLEGAL comes from decoding alone. -/
def Obligations.OnlyTheListedCodes : Prop :=
  ∀ (i : Instr) (s t : State), i.isHost = true → exec i s = .next t →
    Waits s t ∨ Ended .ok s t ∨ (Ended .eUsage s t ∧ accepts i s.lc = false) ∨
      (Ended .eTransport s t ∧ (∀ c len y x, i ≠ .hrun c len y x) ∧ (∀ c len y x, i ≠ .vrun c len y x) ∧
        ∀ q, i ≠ .setrot q)

/-- 43_sequencer.md R131 (decisions D15, D16, D30): the transitions of LC, all of them. -/
def Obligations.LifecycleTransitions : Prop :=
  (∀ (i : Instr) (s t : State), exec i s = .next t →
    (t.lc = s.lc ∧ (s.lc = .uninitialized → i = .startup → False) ∧ (s.lc = .active → i = .shutdown → False)) ∨
    (i = .startup ∧ s.lc = .uninitialized ∧
      ((t.lc = .active ∧ t.res = some .ok) ∨ (t.lc = .starting ∧ t.res ≠ some .ok))) ∨
    (i = .shutdown ∧ s.lc = .active ∧
      ((t.lc = .stopped ∧ t.res = some .ok) ∨ (t.lc = .shuttingDown ∧ t.res ≠ some .ok)))) ∧
  ∀ s t : State, step s = .next t → s.lc = .stopped → t.lc = .stopped ∨ ∃ rest, s.inputs = .rst :: rest

/-! ## The sequencer -/

/-- 43_sequencer.md R132, R133: DOC0's contrast cells for every choice of the tables (conflict C4), and every byte of
the default tables (mux, chargepump and the rest of the table are the spec's decisions D20, D21, log entries 18,
19). -/
def Obligations.PanelConfigurationTable : Prop :=
  ∀ p : Params,
    (p.geometry.width = 128 → p.geometry.height = 64 → p.geometry.extvcc = false → (panelConfig p).contrast = 0xCF) ∧
    (p.geometry.width = 128 → p.geometry.height = 32 → (panelConfig p).contrast = 0x8F) ∧
    (p.panelTable = {} → p.wc = {} →
      (panelConfig p).mux = BitVec.ofNat 8 (p.geometry.height - 1) ∧
      (panelConfig p).offset = 0 ∧ (panelConfig p).startline = 0 ∧
      (p.geometry.extvcc = false → (panelConfig p).chargepump = 0x14) ∧
      (p.geometry.extvcc = true → (panelConfig p).chargepump = 0x10) ∧
      (p.geometry.width = 128 → p.geometry.height = 64 → (panelConfig p).compins = 0x12 ∧
        (p.geometry.extvcc = true → (panelConfig p).contrast = 0x9F)) ∧
      (p.geometry.width = 128 → p.geometry.height = 32 → (panelConfig p).compins = 0x02) ∧
      (p.geometry.width = 96 → p.geometry.height = 16 → (panelConfig p).compins = 0x02 ∧
        (p.geometry.extvcc = false → (panelConfig p).contrast = 0xAF) ∧
        (p.geometry.extvcc = true → (panelConfig p).contrast = 0x10)) ∧
      ((p.geometry.width, p.geometry.height) ∉ [(128, 64), (128, 32), (96, 16)] →
        (panelConfig p).compins = 0x02 ∧ (panelConfig p).contrast = 0x8F))

/-- 43_sequencer.md R134 to R137 (decisions D15, D17, D18): STARTUP from `Uninitialized` with every transaction
answered ok sends the list of R135, `17 + 2 * PAGES` transactions, and ends in `Active` with DW empty. -/
def Obligations.StartupRunsTheStartupList : Prop :=
  ∀ s : State, s.lc = .uninitialized → s.transport.AllOk (17 + 2 * s.cfg.geometry.pages) →
    ∃ t, exec .startup s = .next t ∧ Ended .ok s t ∧ t.lc = .active ∧ t.pcfg = some (panelConfig s.cfg) ∧
      t.fb = (s.runCalls s.cfg.splash).fb ∧ t.dw = Window.sentinel s.cfg.geometry ∧ t.rot = s.rot ∧
      t.cfg = s.cfg ∧ t.inputs = s.inputs ∧
      (startupByRule s.cfg t.fb).length = 17 + 2 * s.cfg.geometry.pages ∧
      t.trace = s.trace ++ (startupByRule s.cfg t.fb).map fun x => ⟨x, true⟩

/-- 43_sequencer.md R143 (decision D15): STARTUP whose transaction number `k` (from 0) is answered fail, with DW by
the table of R143 and FB as far as the splash was drawn. -/
def Obligations.StartupFailure : Prop :=
  ∀ (s : State) (k : Nat), s.lc = .uninitialized → k < 17 + 2 * s.cfg.geometry.pages → s.transport.FailsAt k →
    ∃ t, exec .startup s = .next t ∧ Ended .eTransport s t ∧ t.lc = .starting ∧
      t.pcfg = some (panelConfig s.cfg) ∧ t.rot = s.rot ∧ t.cfg = s.cfg ∧
      t.fb = (if k < 16 then s.fb else (s.runCalls s.cfg.splash).fb) ∧
      t.dw = (if k < 16 then s.dw
        else if k < 16 + 2 * s.cfg.geometry.pages then
          ⟨0, 0, (s.cfg.geometry.width : Int) - 1, (s.cfg.geometry.height : Int) - 1⟩
        else Window.sentinel s.cfg.geometry) ∧
      t.trace = s.trace ++
        ((startupByRule s.cfg (s.runCalls s.cfg.splash).fb).take k).map (fun x => ⟨x, true⟩) ++
        [⟨(startupByRule s.cfg (s.runCalls s.cfg.splash).fb).getD k .release, false⟩]

/-- 43_sequencer.md R138: FLUSH of a window inside the buffer: nothing where it is empty; every transaction answered
ok: the address command and the data block of every page, ascending, then DW_RESET; transaction number `k` answered
fail: it stops there and does not reset DW. FB is not written. -/
def Obligations.FlushSendsTheWindow : Prop :=
  ∀ s : State, Window.Legal s.cfg.geometry s.dw →
    (s.dw.x2 - s.dw.x1 + 1 ≤ 0 → s.flush = .done s) ∧
    (0 < s.dw.x2 - s.dw.x1 + 1 → s.transport.AllOk (flushByRule s).length →
      ∃ t, s.flush = .done t ∧ t.dw = Window.sentinel s.cfg.geometry ∧ t.fb = s.fb ∧
        t.trace = s.trace ++ (flushByRule s).map fun x => ⟨x, true⟩) ∧
    ∀ k, 0 < s.dw.x2 - s.dw.x1 + 1 → k < (flushByRule s).length → s.transport.FailsAt k →
      ∃ t, s.flush = .failed t ∧ t.dw = s.dw ∧ t.fb = s.fb ∧
        t.trace = s.trace ++ ((flushByRule s).take k).map (fun x => ⟨x, true⟩) ++
          [⟨(flushByRule s).getD k .release, false⟩]

/-- 43_sequencer.md R139: DISPLAY in Active with every transaction answered ok sends the flush of DW and ends OK
with DW empty; FB is read and not written. -/
def Obligations.DisplaySendsTheDirtyWindow : Prop :=
  ∀ s : State, s.lc = .active → Window.Legal s.cfg.geometry s.dw → s.dw.isEmpty = false →
    s.transport.AllOk (flushByRule s).length →
    ∃ t, exec .display s = .next t ∧ Ended .ok s t ∧ t.dw = Window.sentinel s.cfg.geometry ∧ t.fb = s.fb ∧
      t.rot = s.rot ∧ t.lc = .active ∧ t.pcfg = s.pcfg ∧ t.cfg = s.cfg ∧ t.inputs = s.inputs ∧
      t.trace = s.trace ++ (flushByRule s).map fun x => ⟨x, true⟩

/-- 43_sequencer.md R146: with DW empty FLUSH issues nothing and leaves DW as it is, and DISPLAY ends OK; after a
flush that went through, the window is empty and a further flush issues nothing. -/
def Obligations.EmptyWindowSendsNothing : Prop :=
  (∀ s : State, s.dw.isEmpty = true → s.flush = .done s ∧
    (s.lc = .active → ∃ t, exec .display s = .next t ∧ Ended .ok s t ∧ NoTraffic s t ∧ SameRegisters s t ∧
      t.inputs = s.inputs)) ∧
  ∀ s t : State, s.flush = .done t → t.dw.isEmpty = true ∧ t.flush = .done t

/-- 43_sequencer.md R144: a FLUSH transaction answered fail ends DISPLAY with E_TRANSPORT at once; DW, FB and LC
are as when it began, and the trace ends with the failed transaction. -/
def Obligations.FailedFlushKeepsTheWindow : Prop :=
  ∀ (s : State) (k : Nat), s.lc = .active → Window.Legal s.cfg.geometry s.dw → s.dw.isEmpty = false →
    k < (flushByRule s).length → s.transport.FailsAt k →
    ∃ t, exec .display s = .next t ∧ Ended .eTransport s t ∧ SameRegisters s t ∧ t.inputs = s.inputs ∧
      t.trace = s.trace ++ ((flushByRule s).take k).map (fun x => ⟨x, true⟩) ++
        [⟨(flushByRule s).getD k .release, false⟩]

/-- 43_sequencer.md R145: the traffic of a flush that is not empty, counted on what it appends to the trace: with
`np` pages, `2 * np` transactions answered ok, `6 * np` command bytes, `np * (x2 - x1 + 1)` data bytes, and the same
column range in every command; and with every answer ok the flush goes through, and DISPLAY in Active sends it. -/
def Obligations.FlushTraffic : Prop :=
  ∀ s : State, Window.Legal s.cfg.geometry s.dw → s.dw.isEmpty = false →
    let np := s.dw.y2.toNat / 8 - s.dw.y1.toNat / 8 + 1
    let bytes := fun (k : BitVec 2) (l : List TxnRecord) =>
      ((l.filter fun r => r.txn.kind == k).map fun r => r.txn.payload.length).sum
    let counts := fun (t : State) => ∃ l : List TxnRecord, t.trace = s.trace ++ l ∧ l.length = 2 * np ∧
      (∀ r ∈ l, r.ok = true) ∧ bytes 1 l = 6 * np ∧ ((bytes 2 l : Nat) : Int) = np * (s.dw.x2 - s.dw.x1 + 1) ∧
      ∀ r ∈ l, r.txn.kind = 1 → ∃ p : Byte, r.txn = .cmdseq [s.cfg.wc.pageAddr, p, p, s.cfg.wc.columnAddr,
        BitVec.ofInt 8 s.dw.x1, BitVec.ofInt 8 s.dw.x2]
    (∀ t, s.flush = .done t → counts t) ∧
    (s.transport.AllOk (2 * np) → (∃ t, s.flush = .done t) ∧
      (s.lc = .active → ∃ t, exec .display s = .next t ∧ Ended .ok s t ∧ counts t))

/-- 20_memory.md R37, R44: no step from a state that meets the invariant reads FB outside its bytes: HRUN, VRUN, the
splash and full flush of STARTUP, DISPLAY and every other step give the same, whatever a memory would hold outside
`0 .. FB_SIZE-1`. In a state no run reaches, whose dirty window would make FLUSH read outside FB, DISPLAY faults, and
from the invariant nothing does (the model's own stop, log entry 22). -/
def Obligations.NoStepReadsOutsideTheBuffer : Prop :=
  (∀ (s t : State) (m : Memory), s.Inv → m.rising = true → SameInside s.cfg m s.fb → step s = .next t →
    ∃ n, step { s with fb := m } = .next { t with fb := n } ∧ SameInside s.cfg n t.fb) ∧
  (∀ s : State, s.Inv → step s ≠ .fault .windowOutOfRange) ∧
  ∀ s : State, s.lc = .active → s.dw.isEmpty = false →
    (s.dw.x1 < 0 ∨ (s.cfg.geometry.width : Int) ≤ s.dw.x2 ∨ s.dw.y1 < 0 ∨ (s.cfg.geometry.height : Int) ≤ s.dw.y2) →
    exec .display s = .fault .windowOutOfRange

/-- 43_sequencer.md R140, R148 (decision D16): SHUTDOWN in Active, all answered ok or number `k` answered fail. -/
def Obligations.ShutdownReleasesTheTransport : Prop :=
  ∀ s : State, s.lc = .active →
    let l : List Txn := [.cmd1 s.cfg.wc.deactivateScroll, .cmd1 s.cfg.wc.displayOff, .release]
    (s.transport.AllOk 3 → ∃ t, exec .shutdown s = .next t ∧ Ended .ok s t ∧ t.lc = .stopped ∧ t.fb = s.fb ∧
      t.dw = s.dw ∧ t.rot = s.rot ∧ t.pcfg = s.pcfg ∧ t.cfg = s.cfg ∧ t.inputs = s.inputs ∧
      t.trace = s.trace ++ l.map fun x => ⟨x, true⟩) ∧
    ∀ k, k < 3 → s.transport.FailsAt k → ∃ t, exec .shutdown s = .next t ∧ Ended .eTransport s t ∧
      t.lc = .shuttingDown ∧ t.fb = s.fb ∧ t.dw = s.dw ∧ t.rot = s.rot ∧ t.pcfg = s.pcfg ∧ t.cfg = s.cfg ∧
      t.trace = s.trace ++ (l.take k).map (fun x => ⟨x, true⟩) ++ [⟨l.getD k .release, false⟩]

/-- 43_sequencer.md R141, R142 (decision D25): ENDISP and INVDISP in Active send one command and write no register
of the block, whatever the answer. -/
def Obligations.PanelModeCommands : Prop :=
  ∀ (s : State) (b : Bool), s.lc = .active →
    let on : Txn := .cmd1 (if b then s.cfg.wc.displayOn else s.cfg.wc.displayOff)
    let inv : Txn := .cmd1 (if b then s.cfg.wc.invertDisplay else s.cfg.wc.normalDisplay)
    (s.transport.answer 0 = .ok →
      exec (.endisp b) s = .next ((s.sent [on]).deliver .ok) ∧
      exec (.invdisp b) s = .next ((s.sent [inv]).deliver .ok)) ∧
    (s.transport.answer 0 = .fail →
      exec (.endisp b) s = .next ((s.sentFailed on).deliver .eTransport) ∧
      exec (.invdisp b) s = .next ((s.sentFailed inv).deliver .eTransport))

/-! ## Scroll -/

/-- 44_scroll.md R157 to R163 (decisions D17, D22, conflict C2): the five start-scroll operations in Active with
every transaction answered ok; the page operands go out unchanged (R167). -/
def Obligations.ScrollSequences : Prop :=
  ∀ (s : State) (stop start : Byte), s.lc = .active → s.transport.AllOk 4 →
    let run := fun (d h v : Byte) => (s.sent (scrollByRule s.cfg d h v stop start)).deliver .ok
    exec (.scrl stop start) s = .next (run s.cfg.wc.leftScroll 0 0) ∧
    exec (.scrr stop start) s = .next (run s.cfg.wc.rightScroll 0 0) ∧
    exec (.scrdl stop start) s = .next (run s.cfg.wc.vertLeftScroll 1 s.cfg.scrollVinc) ∧
    exec (.scrdr stop start) s = .next (run s.cfg.wc.vertRightScroll 1 s.cfg.scrollVinc) ∧
    exec (.scrup stop start) s = .next (run s.cfg.opScrollUp 0 s.cfg.scrollVinc)

/-- 44_scroll.md R166 (with the constants of R157, decision D22): on the first transaction answered fail no further
one is issued, the result is E_TRANSPORT, no state of the block changes and LC stays Active. -/
def Obligations.ScrollFailureChangesNothing : Prop :=
  ∀ (i : Instr) (d h v : Byte) (s : State) (stop start : Byte) (k : Nat), s.lc = .active → k < 4 →
    s.transport.FailsAt k →
    (i, d, h, v) ∈ [(Instr.scrl stop start, s.cfg.wc.leftScroll, 0, 0), (.scrr stop start, s.cfg.wc.rightScroll, 0, 0),
      (.scrdl stop start, s.cfg.wc.vertLeftScroll, 1, s.cfg.scrollVinc),
      (.scrdr stop start, s.cfg.wc.vertRightScroll, 1, s.cfg.scrollVinc),
      (.scrup stop start, s.cfg.opScrollUp, 0, s.cfg.scrollVinc)] →
    ∃ t, exec i s = .next t ∧ Ended .eTransport s t ∧ SameRegisters s t ∧ t.lc = .active ∧ t.inputs = s.inputs ∧
      t.trace = s.trace ++ ((scrollByRule s.cfg d h v stop start).take k).map (fun x => ⟨x, true⟩) ++
        [⟨(scrollByRule s.cfg d h v stop start).getD k .release, false⟩]

/-- 44_scroll.md R164 (decision D24): SCRSTOP in Active sends deactivate-scroll and marks the window full whether
the transaction is answered ok or fail. -/
def Obligations.ScrollStopMarksTheWindowFull : Prop :=
  ∀ s : State, s.lc = .active →
    (s.transport.answer 0 = .ok → exec .scrstop s =
      .next ({ s.sent [.cmd1 s.cfg.wc.deactivateScroll] with
        dw := ⟨0, 0, (s.cfg.geometry.width : Int) - 1, (s.cfg.geometry.height : Int) - 1⟩ }.deliver .ok)) ∧
    (s.transport.answer 0 = .fail → exec .scrstop s =
      .next ({ s.sentFailed (.cmd1 s.cfg.wc.deactivateScroll) with
        dw := ⟨0, 0, (s.cfg.geometry.width : Int) - 1, (s.cfg.geometry.height : Int) - 1⟩ }.deliver .eTransport))

/-- The frames of the operations that reach the transport, whatever the answers (43_sequencer.md R134, R139 to R142,
44_scroll.md R158, R164). -/
def Obligations.SystemOperationFrames : Prop :=
  ∀ s t : State,
    (exec .startup s = .next t → t.cfg = s.cfg ∧ t.rot = s.rot ∧ t.inputs = s.inputs ∧
      (t.fb = s.fb ∨ t.fb = (s.runCalls s.cfg.splash).fb)) ∧
    (exec .display s = .next t → t.cfg = s.cfg ∧ t.fb = s.fb ∧ t.rot = s.rot ∧ t.lc = s.lc ∧ t.pcfg = s.pcfg ∧
      t.inputs = s.inputs ∧ (t.dw = s.dw ∨ t.dw = Window.sentinel s.cfg.geometry)) ∧
    (exec .shutdown s = .next t → t.cfg = s.cfg ∧ t.fb = s.fb ∧ t.dw = s.dw ∧ t.rot = s.rot ∧ t.pcfg = s.pcfg ∧
      t.inputs = s.inputs) ∧
    (∀ b, exec (.endisp b) s = .next t ∨ exec (.invdisp b) s = .next t →
      SameRegisters s t ∧ t.inputs = s.inputs) ∧
    (∀ a b, exec (.scrl a b) s = .next t ∨ exec (.scrr a b) s = .next t ∨ exec (.scrdl a b) s = .next t ∨
        exec (.scrdr a b) s = .next t ∨ exec (.scrup a b) s = .next t →
      SameRegisters s t ∧ t.inputs = s.inputs) ∧
    (exec .scrstop s = .next t → t.cfg = s.cfg ∧ t.fb = s.fb ∧ t.rot = s.rot ∧ t.lc = s.lc ∧ t.pcfg = s.pcfg ∧
      t.inputs = s.inputs ∧ (t.dw = s.dw ∨ t.dw = Window.full s.cfg.geometry))

/-! ## Wire commands on their own (log entry 8) -/

/-- 30_encoding.md R74 to R92: the wire commands of one byte, each one CMD1, and those with one parameter byte, each
one CMDSEQ. -/
def Obligations.ShortWireCommands : Prop :=
  ∀ (s : State) (a : Byte), s.transport.answer 0 = .ok →
    let wc := s.cfg.wc
    let one := fun (b : Byte) => (s.sent [.cmd1 b]).deliver .ok
    let two := fun (k : Byte) => (s.sent [.cmdseq [k, a]]).deliver .ok
    exec .wDisplayOff s = .next (one wc.displayOff) ∧ exec .wDisplayOn s = .next (one wc.displayOn) ∧
    exec .wSegRemap s = .next (one wc.segRemap) ∧ exec .wComScanDec s = .next (one wc.comScanDec) ∧
    (∀ l, exec (.wSetStartLine l) s = .next (one (wc.setStartLine ||| l.setWidth 8))) ∧
    exec .wDisplayAllOnResume s = .next (one wc.displayAllOnResume) ∧
    exec .wNormalDisplay s = .next (one wc.normalDisplay) ∧ exec .wInvertDisplay s = .next (one wc.invertDisplay) ∧
    exec .wDeactivateScroll s = .next (one wc.deactivateScroll) ∧
    exec .wActivateScroll s = .next (one wc.activateScroll) ∧
    exec (.wSetClockDiv a) s = .next (two wc.setClockDiv) ∧ exec (.wSetMultiplex a) s = .next (two wc.setMultiplex) ∧
    exec (.wMemoryMode a) s = .next (two wc.memoryMode) ∧
    exec (.wSetVcomDeselect a) s = .next (two wc.setVcomDeselect) ∧
    exec (.wChargePump a) s = .next (two wc.chargePump) ∧
    exec (.wSetDisplayOffset a) s = .next (two wc.setDisplayOffset) ∧
    exec (.wSetComPins a) s = .next (two wc.setComPins) ∧ exec (.wSetContrast a) s = .next (two wc.setContrast) ∧
    exec (.wSetPrecharge a) s = .next (two wc.setPrecharge)

/-- 30_encoding.md R93 to R99: the wire commands with two and with seven parameter bytes. -/
def Obligations.LongWireCommands : Prop :=
  ∀ (s : State) (a b c d e f g : Byte), s.transport.answer 0 = .ok →
    let wc := s.cfg.wc
    let run := fun (bs : List Byte) => (s.sent [.cmdseq bs]).deliver .ok
    exec (.wSetVerticalScrollArea a b) s = .next (run [wc.setVerticalScrollArea, a, b]) ∧
    exec (.wColumnAddr a b) s = .next (run [wc.columnAddr, a, b]) ∧
    exec (.wPageAddr a b) s = .next (run [wc.pageAddr, a, b]) ∧
    exec (.wRightScroll a b c d e f g) s = .next (run [wc.rightScroll, a, b, c, d, e, f, g]) ∧
    exec (.wLeftScroll a b c d e f g) s = .next (run [wc.leftScroll, a, b, c, d, e, f, g]) ∧
    exec (.wVertRightScroll a b c d e f g) s = .next (run [wc.vertRightScroll, a, b, c, d, e, f, g]) ∧
    exec (.wVertLeftScroll a b c d e f g) s = .next (run [wc.vertLeftScroll, a, b, c, d, e, f, g])

/-- The frame of the wire commands: whatever the answer, no register of the block changes; a failed one ends with
E_TRANSPORT (60_exceptions.md R172). -/
def Obligations.WireCommandsKeepTheRegisters : Prop :=
  ∀ (i : Instr) (s : State), i.isHost = false →
    ∃ t, exec i s = .next t ∧ SameRegisters s t ∧ t.inputs = s.inputs ∧
      (s.transport.answer 0 = .ok → Ended .ok s t) ∧
      (s.transport.answer 0 = .fail → Ended .eTransport s t) ∧ (s.transport.answer 0 = .never → Waits s t)

/-! ## Whole-machine rules -/

/-- The invariant holds after reset, for every choice of the parameters (10_state.md R16, R33). -/
def Obligations.ResetMeetsTheInvariant : Prop := ∀ p : Params, (State.resetWith p).Inv

/-- Every step keeps the invariant: FB canonical inside the buffer, DW legal (10_state.md R16), SEQ idle at every
boundary (R21), the operand latches and DW within COORD_W bits (R20, R15), PCFG computed once (R19), nothing drawn before
STARTUP. -/
def Obligations.StepKeepsTheInvariant : Prop := ∀ s t : State, s.Inv → step s = .next t → t.Inv

/-- 00_scope.md R5: no step changes a parameter; geometry is fixed at construction. -/
def Obligations.ParametersNeverChange : Prop := ∀ s t : State, step s = .next t → t.cfg = s.cfg

/-- 00_scope.md R2: nothing flows from the panel back: what a step does to everything but the ghost of the panel
does not depend on that ghost (log entry 10). -/
def Obligations.NothingFlowsBackFromThePanel : Prop :=
  ∀ s s' : State, s.blockOnly = s'.blockOnly → outcomeBlock (step s) = outcomeBlock (step s')

/-- 20_memory.md R48, 60_exceptions.md R172, R182: a step only appends to the trace, every transaction before the
last answered ok, and appends at most one result; E_TRANSPORT goes with a failed last transaction. -/
def Obligations.TraceAndResultsOnlyGrow : Prop :=
  ∀ s t : State, step s = .next t → ∃ l : List TxnRecord,
    t.trace = s.trace ++ l ∧ (∀ r ∈ l.dropLast, r.ok = true) ∧
    (t.results = s.results ∨ ∃ r, t.results = s.results ++ [r] ∧
      (r = .eTransport ↔ ∃ x, l.getLast? = some ⟨x, false⟩))

/-- 20_memory.md R46, R49 (general knowledge, log entry 10): in the ghost, with no scroll active and horizontal
addressing, a DISPLAY answered ok makes the panel hold FB on the dirty window. -/
def Obligations.DisplayBringsThePanelInStep : Prop :=
  ∀ s : State, s.lc = .active → Window.Legal s.cfg.geometry s.dw → s.dw.isEmpty = false → s.cfg.wc.Decodable →
    s.panel.scrolling = some false → s.panel.memoryMode = some 0 → s.transport.AllOk (flushByRule s).length →
    ∃ t, exec .display s = .next t ∧
      ∀ pg col : Nat, s.dw.y1.toNat / 8 ≤ pg → pg ≤ s.dw.y2.toNat / 8 → s.dw.x1 ≤ col → (col : Int) ≤ s.dw.x2 →
        t.panel.gddram.get? (pg * 256 + col) = some (fbRead s.cfg s.fb (pg * s.cfg.geometry.width + col))

/-- 70_reset_and_hazards.md R197 (the ghost, log entry 10): what STARTUP establishes on the panel, every transaction
answered ok: the configuration, and, with horizontal addressing selected (30_encoding.md R78), the whole of FB in
panel memory. -/
def Obligations.StartupConfiguresThePanel : Prop :=
  ∀ s : State, s.lc = .uninitialized → s.cfg.wc.Decodable →
    s.transport.AllOk (17 + 2 * s.cfg.geometry.pages) →
    ∃ t, exec .startup s = .next t ∧
      let c := panelConfig s.cfg
      t.panel.display = some true ∧ t.panel.inverted = some false ∧ t.panel.scrolling = some false ∧
      t.panel.allOnResumed = some true ∧ t.panel.segRemapped = some (s.cfg.wc.segRemap.getLsbD 0) ∧
      t.panel.comScan = some s.cfg.wc.comScanDec ∧
      t.panel.clockDiv = some s.cfg.wc.clockDivValue ∧ t.panel.multiplex = some c.mux ∧
      t.panel.memoryMode = some s.cfg.wc.memoryModeValue ∧
      t.panel.vcomDeselect = some s.cfg.wc.vcomDeselectValue ∧ t.panel.chargePump = some c.chargepump ∧
      t.panel.displayOffset = some c.offset ∧ t.panel.startLine = some c.startline ∧
      t.panel.comPins = some c.compins ∧ t.panel.contrast = some c.contrast ∧
      t.panel.precharge = some (prechargeByte s.cfg) ∧
      (s.cfg.wc.memoryModeValue = 0 → ∀ pg col : Nat, pg < s.cfg.geometry.pages → col < s.cfg.geometry.width →
        t.panel.gddram.get? (pg * 256 + col) = some (fbRead s.cfg t.fb (pg * s.cfg.geometry.width + col)))
end

