-- ==== Sys2Proof/Laws/State.lean ====
section
/-! SUPPORT. What each update of the state leaves in each field. -/

namespace Sys2Proof.Machine

/-! ## deliver -/

@[simp] theorem State.deliver_cfg (r : ResultCode) (s : State) : (s.deliver r).cfg = s.cfg := rfl
@[simp] theorem State.deliver_fb (r : ResultCode) (s : State) : (s.deliver r).fb = s.fb := rfl
@[simp] theorem State.deliver_dw (r : ResultCode) (s : State) : (s.deliver r).dw = s.dw := rfl
@[simp] theorem State.deliver_rot (r : ResultCode) (s : State) : (s.deliver r).rot = s.rot := rfl
@[simp] theorem State.deliver_lc (r : ResultCode) (s : State) : (s.deliver r).lc = s.lc := rfl
@[simp] theorem State.deliver_pcfg (r : ResultCode) (s : State) : (s.deliver r).pcfg = s.pcfg := rfl
@[simp] theorem State.deliver_seq (r : ResultCode) (s : State) : (s.deliver r).seq = .idle := rfl
@[simp] theorem State.deliver_opReady (r : ResultCode) (s : State) : (s.deliver r).opReady = true := rfl
@[simp] theorem State.deliver_res (r : ResultCode) (s : State) : (s.deliver r).res = some r := rfl
@[simp] theorem State.deliver_bus (r : ResultCode) (s : State) : (s.deliver r).bus = none := rfl
@[simp] theorem State.deliver_latch (r : ResultCode) (s : State) : (s.deliver r).latch = none := rfl
@[simp] theorem State.deliver_inputs (r : ResultCode) (s : State) : (s.deliver r).inputs = s.inputs := rfl
@[simp] theorem State.deliver_transport (r : ResultCode) (s : State) : (s.deliver r).transport = s.transport := rfl
@[simp] theorem State.deliver_trace (r : ResultCode) (s : State) : (s.deliver r).trace = s.trace := rfl
@[simp] theorem State.deliver_results (r : ResultCode) (s : State) : (s.deliver r).results = s.results ++ [r] := rfl
@[simp] theorem State.deliver_panel (r : ResultCode) (s : State) : (s.deliver r).panel = s.panel := rfl

/-! ## accept -/

@[simp] theorem State.accept_cfg (i : Option Instr) (rest : List Input) (s : State) : (s.accept i rest).cfg = s.cfg := rfl
@[simp] theorem State.accept_fb (i : Option Instr) (rest : List Input) (s : State) : (s.accept i rest).fb = s.fb := rfl
@[simp] theorem State.accept_dw (i : Option Instr) (rest : List Input) (s : State) : (s.accept i rest).dw = s.dw := rfl
@[simp] theorem State.accept_rot (i : Option Instr) (rest : List Input) (s : State) : (s.accept i rest).rot = s.rot := rfl
@[simp] theorem State.accept_lc (i : Option Instr) (rest : List Input) (s : State) : (s.accept i rest).lc = s.lc := rfl
@[simp] theorem State.accept_pcfg (i : Option Instr) (rest : List Input) (s : State) : (s.accept i rest).pcfg = s.pcfg := rfl
@[simp] theorem State.accept_seq (i : Option Instr) (rest : List Input) (s : State) : (s.accept i rest).seq = s.seq := rfl
@[simp] theorem State.accept_opReady (i : Option Instr) (rest : List Input) (s : State) : (s.accept i rest).opReady = false := rfl
@[simp] theorem State.accept_res (i : Option Instr) (rest : List Input) (s : State) : (s.accept i rest).res = none := rfl
@[simp] theorem State.accept_bus (i : Option Instr) (rest : List Input) (s : State) : (s.accept i rest).bus = s.bus := rfl
@[simp] theorem State.accept_latch (i : Option Instr) (rest : List Input) (s : State) : (s.accept i rest).latch = i := rfl
@[simp] theorem State.accept_inputs (i : Option Instr) (rest : List Input) (s : State) : (s.accept i rest).inputs = rest := rfl
@[simp] theorem State.accept_transport (i : Option Instr) (rest : List Input) (s : State) : (s.accept i rest).transport = s.transport := rfl
@[simp] theorem State.accept_trace (i : Option Instr) (rest : List Input) (s : State) : (s.accept i rest).trace = s.trace := rfl
@[simp] theorem State.accept_results (i : Option Instr) (rest : List Input) (s : State) : (s.accept i rest).results = s.results := rfl
@[simp] theorem State.accept_panel (i : Option Instr) (rest : List Input) (s : State) : (s.accept i rest).panel = s.panel := rfl

/-! ## markFull -/

@[simp] theorem State.markFull_cfg (s : State) : (s.markFull).cfg = s.cfg := rfl
@[simp] theorem State.markFull_fb (s : State) : (s.markFull).fb = s.fb := rfl
@[simp] theorem State.markFull_dw (s : State) : (s.markFull).dw = Window.full s.cfg.geometry := rfl
@[simp] theorem State.markFull_rot (s : State) : (s.markFull).rot = s.rot := rfl
@[simp] theorem State.markFull_lc (s : State) : (s.markFull).lc = s.lc := rfl
@[simp] theorem State.markFull_pcfg (s : State) : (s.markFull).pcfg = s.pcfg := rfl
@[simp] theorem State.markFull_seq (s : State) : (s.markFull).seq = s.seq := rfl
@[simp] theorem State.markFull_opReady (s : State) : (s.markFull).opReady = s.opReady := rfl
@[simp] theorem State.markFull_res (s : State) : (s.markFull).res = s.res := rfl
@[simp] theorem State.markFull_bus (s : State) : (s.markFull).bus = s.bus := rfl
@[simp] theorem State.markFull_latch (s : State) : (s.markFull).latch = s.latch := rfl
@[simp] theorem State.markFull_inputs (s : State) : (s.markFull).inputs = s.inputs := rfl
@[simp] theorem State.markFull_transport (s : State) : (s.markFull).transport = s.transport := rfl
@[simp] theorem State.markFull_trace (s : State) : (s.markFull).trace = s.trace := rfl
@[simp] theorem State.markFull_results (s : State) : (s.markFull).results = s.results := rfl
@[simp] theorem State.markFull_panel (s : State) : (s.markFull).panel = s.panel := rfl

/-! ## resetWindow -/

@[simp] theorem State.resetWindow_cfg (s : State) : (s.resetWindow).cfg = s.cfg := rfl
@[simp] theorem State.resetWindow_fb (s : State) : (s.resetWindow).fb = s.fb := rfl
@[simp] theorem State.resetWindow_dw (s : State) : (s.resetWindow).dw = Window.sentinel s.cfg.geometry := rfl
@[simp] theorem State.resetWindow_rot (s : State) : (s.resetWindow).rot = s.rot := rfl
@[simp] theorem State.resetWindow_lc (s : State) : (s.resetWindow).lc = s.lc := rfl
@[simp] theorem State.resetWindow_pcfg (s : State) : (s.resetWindow).pcfg = s.pcfg := rfl
@[simp] theorem State.resetWindow_seq (s : State) : (s.resetWindow).seq = s.seq := rfl
@[simp] theorem State.resetWindow_opReady (s : State) : (s.resetWindow).opReady = s.opReady := rfl
@[simp] theorem State.resetWindow_res (s : State) : (s.resetWindow).res = s.res := rfl
@[simp] theorem State.resetWindow_bus (s : State) : (s.resetWindow).bus = s.bus := rfl
@[simp] theorem State.resetWindow_latch (s : State) : (s.resetWindow).latch = s.latch := rfl
@[simp] theorem State.resetWindow_inputs (s : State) : (s.resetWindow).inputs = s.inputs := rfl
@[simp] theorem State.resetWindow_transport (s : State) : (s.resetWindow).transport = s.transport := rfl
@[simp] theorem State.resetWindow_trace (s : State) : (s.resetWindow).trace = s.trace := rfl
@[simp] theorem State.resetWindow_results (s : State) : (s.resetWindow).results = s.results := rfl
@[simp] theorem State.resetWindow_panel (s : State) : (s.resetWindow).panel = s.panel := rfl

/-! ## atPage -/

@[simp] theorem State.atPage_cfg (n : Nat) (s : State) : (s.atPage n).cfg = s.cfg := rfl
@[simp] theorem State.atPage_fb (n : Nat) (s : State) : (s.atPage n).fb = s.fb := rfl
@[simp] theorem State.atPage_dw (n : Nat) (s : State) : (s.atPage n).dw = s.dw := rfl
@[simp] theorem State.atPage_rot (n : Nat) (s : State) : (s.atPage n).rot = s.rot := rfl
@[simp] theorem State.atPage_lc (n : Nat) (s : State) : (s.atPage n).lc = s.lc := rfl
@[simp] theorem State.atPage_pcfg (n : Nat) (s : State) : (s.atPage n).pcfg = s.pcfg := rfl
@[simp] theorem State.atPage_seq (n : Nat) (s : State) : (s.atPage n).seq = ⟨s.seq.step, n⟩ := rfl
@[simp] theorem State.atPage_opReady (n : Nat) (s : State) : (s.atPage n).opReady = s.opReady := rfl
@[simp] theorem State.atPage_res (n : Nat) (s : State) : (s.atPage n).res = s.res := rfl
@[simp] theorem State.atPage_bus (n : Nat) (s : State) : (s.atPage n).bus = s.bus := rfl
@[simp] theorem State.atPage_latch (n : Nat) (s : State) : (s.atPage n).latch = s.latch := rfl
@[simp] theorem State.atPage_inputs (n : Nat) (s : State) : (s.atPage n).inputs = s.inputs := rfl
@[simp] theorem State.atPage_transport (n : Nat) (s : State) : (s.atPage n).transport = s.transport := rfl
@[simp] theorem State.atPage_trace (n : Nat) (s : State) : (s.atPage n).trace = s.trace := rfl
@[simp] theorem State.atPage_results (n : Nat) (s : State) : (s.atPage n).results = s.results := rfl
@[simp] theorem State.atPage_panel (n : Nat) (s : State) : (s.atPage n).panel = s.panel := rfl

/-! ## present -/

@[simp] theorem State.present_cfg (w : InstrWord) (s : State) : (s.present w).cfg = s.cfg := rfl
@[simp] theorem State.present_fb (w : InstrWord) (s : State) : (s.present w).fb = s.fb := rfl
@[simp] theorem State.present_dw (w : InstrWord) (s : State) : (s.present w).dw = s.dw := rfl
@[simp] theorem State.present_rot (w : InstrWord) (s : State) : (s.present w).rot = s.rot := rfl
@[simp] theorem State.present_lc (w : InstrWord) (s : State) : (s.present w).lc = s.lc := rfl
@[simp] theorem State.present_pcfg (w : InstrWord) (s : State) : (s.present w).pcfg = s.pcfg := rfl
@[simp] theorem State.present_seq (w : InstrWord) (s : State) : (s.present w).seq = s.seq := rfl
@[simp] theorem State.present_opReady (w : InstrWord) (s : State) : (s.present w).opReady = s.opReady := rfl
@[simp] theorem State.present_res (w : InstrWord) (s : State) : (s.present w).res = s.res := rfl
@[simp] theorem State.present_bus (w : InstrWord) (s : State) : (s.present w).bus = s.bus := rfl
@[simp] theorem State.present_latch (w : InstrWord) (s : State) : (s.present w).latch = s.latch := rfl
@[simp] theorem State.present_inputs (w : InstrWord) (s : State) : (s.present w).inputs = .word w :: s.inputs := rfl
@[simp] theorem State.present_transport (w : InstrWord) (s : State) : (s.present w).transport = s.transport := rfl
@[simp] theorem State.present_trace (w : InstrWord) (s : State) : (s.present w).trace = s.trace := rfl
@[simp] theorem State.present_results (w : InstrWord) (s : State) : (s.present w).results = s.results := rfl
@[simp] theorem State.present_panel (w : InstrWord) (s : State) : (s.present w).panel = s.panel := rfl

/-! ## sent -/

@[simp] theorem State.sent_cfg (ts : List Txn) (s : State) : (s.sent ts).cfg = s.cfg := rfl
@[simp] theorem State.sent_fb (ts : List Txn) (s : State) : (s.sent ts).fb = s.fb := rfl
@[simp] theorem State.sent_dw (ts : List Txn) (s : State) : (s.sent ts).dw = s.dw := rfl
@[simp] theorem State.sent_rot (ts : List Txn) (s : State) : (s.sent ts).rot = s.rot := rfl
@[simp] theorem State.sent_lc (ts : List Txn) (s : State) : (s.sent ts).lc = s.lc := rfl
@[simp] theorem State.sent_pcfg (ts : List Txn) (s : State) : (s.sent ts).pcfg = s.pcfg := rfl
@[simp] theorem State.sent_seq (ts : List Txn) (s : State) : (s.sent ts).seq = ⟨s.seq.step + ts.length, s.seq.page⟩ := rfl
@[simp] theorem State.sent_opReady (ts : List Txn) (s : State) : (s.sent ts).opReady = s.opReady := rfl
@[simp] theorem State.sent_res (ts : List Txn) (s : State) : (s.sent ts).res = s.res := rfl
@[simp] theorem State.sent_bus (ts : List Txn) (s : State) : (s.sent ts).bus = s.bus := rfl
@[simp] theorem State.sent_latch (ts : List Txn) (s : State) : (s.sent ts).latch = s.latch := rfl
@[simp] theorem State.sent_inputs (ts : List Txn) (s : State) : (s.sent ts).inputs = s.inputs := rfl
@[simp] theorem State.sent_transport (ts : List Txn) (s : State) : (s.sent ts).transport = s.transport.drop ts.length := rfl
@[simp] theorem State.sent_trace (ts : List Txn) (s : State) : (s.sent ts).trace = s.trace ++ ts.map fun t => ⟨t, true⟩ := rfl
@[simp] theorem State.sent_results (ts : List Txn) (s : State) : (s.sent ts).results = s.results := rfl
@[simp] theorem State.sent_panel (ts : List Txn) (s : State) : (s.sent ts).panel = ts.foldl (fun p t => p.delivered s.cfg.wc t) s.panel := rfl

/-! ## sentFailed -/

@[simp] theorem State.sentFailed_cfg (t : Txn) (s : State) : (s.sentFailed t).cfg = s.cfg := rfl
@[simp] theorem State.sentFailed_fb (t : Txn) (s : State) : (s.sentFailed t).fb = s.fb := rfl
@[simp] theorem State.sentFailed_dw (t : Txn) (s : State) : (s.sentFailed t).dw = s.dw := rfl
@[simp] theorem State.sentFailed_rot (t : Txn) (s : State) : (s.sentFailed t).rot = s.rot := rfl
@[simp] theorem State.sentFailed_lc (t : Txn) (s : State) : (s.sentFailed t).lc = s.lc := rfl
@[simp] theorem State.sentFailed_pcfg (t : Txn) (s : State) : (s.sentFailed t).pcfg = s.pcfg := rfl
@[simp] theorem State.sentFailed_seq (t : Txn) (s : State) : (s.sentFailed t).seq = s.seq := rfl
@[simp] theorem State.sentFailed_opReady (t : Txn) (s : State) : (s.sentFailed t).opReady = s.opReady := rfl
@[simp] theorem State.sentFailed_res (t : Txn) (s : State) : (s.sentFailed t).res = s.res := rfl
@[simp] theorem State.sentFailed_bus (t : Txn) (s : State) : (s.sentFailed t).bus = s.bus := rfl
@[simp] theorem State.sentFailed_latch (t : Txn) (s : State) : (s.sentFailed t).latch = s.latch := rfl
@[simp] theorem State.sentFailed_inputs (t : Txn) (s : State) : (s.sentFailed t).inputs = s.inputs := rfl
@[simp] theorem State.sentFailed_transport (t : Txn) (s : State) : (s.sentFailed t).transport = s.transport.drop 1 := rfl
@[simp] theorem State.sentFailed_trace (t : Txn) (s : State) : (s.sentFailed t).trace = s.trace ++ [⟨t, false⟩] := rfl
@[simp] theorem State.sentFailed_results (t : Txn) (s : State) : (s.sentFailed t).results = s.results := rfl
@[simp] theorem State.sentFailed_panel (t : Txn) (s : State) : (s.sentFailed t).panel = s.panel.uncertain s.cfg.wc t := rfl

/-! ## sentUnanswered -/

@[simp] theorem State.sentUnanswered_cfg (t : Txn) (s : State) : (s.sentUnanswered t).cfg = s.cfg := rfl
@[simp] theorem State.sentUnanswered_fb (t : Txn) (s : State) : (s.sentUnanswered t).fb = s.fb := rfl
@[simp] theorem State.sentUnanswered_dw (t : Txn) (s : State) : (s.sentUnanswered t).dw = s.dw := rfl
@[simp] theorem State.sentUnanswered_rot (t : Txn) (s : State) : (s.sentUnanswered t).rot = s.rot := rfl
@[simp] theorem State.sentUnanswered_lc (t : Txn) (s : State) : (s.sentUnanswered t).lc = s.lc := rfl
@[simp] theorem State.sentUnanswered_pcfg (t : Txn) (s : State) : (s.sentUnanswered t).pcfg = s.pcfg := rfl
@[simp] theorem State.sentUnanswered_seq (t : Txn) (s : State) : (s.sentUnanswered t).seq = s.seq := rfl
@[simp] theorem State.sentUnanswered_opReady (t : Txn) (s : State) : (s.sentUnanswered t).opReady = false := rfl
@[simp] theorem State.sentUnanswered_res (t : Txn) (s : State) : (s.sentUnanswered t).res = none := rfl
@[simp] theorem State.sentUnanswered_bus (t : Txn) (s : State) : (s.sentUnanswered t).bus = some t := rfl
@[simp] theorem State.sentUnanswered_latch (t : Txn) (s : State) : (s.sentUnanswered t).latch = s.latch := rfl
@[simp] theorem State.sentUnanswered_inputs (t : Txn) (s : State) : (s.sentUnanswered t).inputs = s.inputs := rfl
@[simp] theorem State.sentUnanswered_transport (t : Txn) (s : State) : (s.sentUnanswered t).transport = s.transport.drop 1 := rfl
@[simp] theorem State.sentUnanswered_trace (t : Txn) (s : State) : (s.sentUnanswered t).trace = s.trace := rfl
@[simp] theorem State.sentUnanswered_results (t : Txn) (s : State) : (s.sentUnanswered t).results = s.results := rfl
@[simp] theorem State.sentUnanswered_panel (t : Txn) (s : State) : (s.sentUnanswered t).panel = s.panel.uncertain s.cfg.wc t := rfl

/-! ## assertReset -/

@[simp] theorem State.assertReset_cfg (s : State) : (s.assertReset).cfg = s.cfg := rfl
@[simp] theorem State.assertReset_fb (s : State) : (s.assertReset).fb = [] := rfl
@[simp] theorem State.assertReset_dw (s : State) : (s.assertReset).dw = Window.sentinel s.cfg.geometry := rfl
@[simp] theorem State.assertReset_rot (s : State) : (s.assertReset).rot = .deg0 := rfl
@[simp] theorem State.assertReset_lc (s : State) : (s.assertReset).lc = .uninitialized := rfl
@[simp] theorem State.assertReset_pcfg (s : State) : (s.assertReset).pcfg = none := rfl
@[simp] theorem State.assertReset_seq (s : State) : (s.assertReset).seq = .idle := rfl
@[simp] theorem State.assertReset_opReady (s : State) : (s.assertReset).opReady = true := rfl
@[simp] theorem State.assertReset_res (s : State) : (s.assertReset).res = none := rfl
@[simp] theorem State.assertReset_bus (s : State) : (s.assertReset).bus = none := rfl
@[simp] theorem State.assertReset_latch (s : State) : (s.assertReset).latch = none := rfl
@[simp] theorem State.assertReset_inputs (s : State) : (s.assertReset).inputs = s.inputs := rfl
@[simp] theorem State.assertReset_transport (s : State) : (s.assertReset).transport = s.transport := rfl
@[simp] theorem State.assertReset_trace (s : State) : (s.assertReset).trace = s.trace := rfl
@[simp] theorem State.assertReset_results (s : State) : (s.assertReset).results = s.results := rfl
@[simp] theorem State.assertReset_panel (s : State) : (s.assertReset).panel = s.panel := rfl

/-! ## resetWith -/

@[simp] theorem State.resetWith_cfg (p : Params) : (State.resetWith p).cfg = p := rfl
@[simp] theorem State.resetWith_fb (p : Params) : (State.resetWith p).fb = [] := rfl
@[simp] theorem State.resetWith_dw (p : Params) : (State.resetWith p).dw = Window.sentinel p.geometry := rfl
@[simp] theorem State.resetWith_rot (p : Params) : (State.resetWith p).rot = .deg0 := rfl
@[simp] theorem State.resetWith_lc (p : Params) : (State.resetWith p).lc = .uninitialized := rfl
@[simp] theorem State.resetWith_pcfg (p : Params) : (State.resetWith p).pcfg = none := rfl
@[simp] theorem State.resetWith_seq (p : Params) : (State.resetWith p).seq = .idle := rfl
@[simp] theorem State.resetWith_opReady (p : Params) : (State.resetWith p).opReady = true := rfl
@[simp] theorem State.resetWith_res (p : Params) : (State.resetWith p).res = none := rfl
@[simp] theorem State.resetWith_bus (p : Params) : (State.resetWith p).bus = none := rfl
@[simp] theorem State.resetWith_latch (p : Params) : (State.resetWith p).latch = none := rfl
@[simp] theorem State.resetWith_inputs (p : Params) : (State.resetWith p).inputs = [] := rfl
@[simp] theorem State.resetWith_transport (p : Params) : (State.resetWith p).transport = ⟨[], .ok⟩ := rfl
@[simp] theorem State.resetWith_trace (p : Params) : (State.resetWith p).trace = [] := rfl
@[simp] theorem State.resetWith_results (p : Params) : (State.resetWith p).results = [] := rfl
@[simp] theorem State.resetWith_panel (p : Params) : (State.resetWith p).panel = .unknown := rfl

end Sys2Proof.Machine
end

