-- ==== Sys2Proof/Laws/Bus.lean ====
section
/-! SUPPORT. What issuing transactions can do: one, a list of them, a flush. -/

namespace Sys2Proof.Machine

theorem Transport.next_eq (t : Transport) : t.next = (t.answer 0, t.drop 1) := by
  obtain ⟨l, a⟩ := t
  cases l <;> rfl

@[simp] theorem Transport.answer_drop (t : Transport) (n k : Nat) : (t.drop n).answer k = t.answer (n + k) := by
  simp [Transport.answer, Transport.drop, List.getD_eq_getElem?_getD, List.getElem?_drop]

@[simp] theorem Transport.drop_drop (t : Transport) (n k : Nat) : (t.drop n).drop k = t.drop (n + k) := by
  simp [Transport.drop, List.drop_drop]

@[simp] theorem Transport.drop_zero (t : Transport) : t.drop 0 = t := rfl

theorem Transport.AllOk.mono {t : Transport} {n k : Nat} (h : t.AllOk n) (hk : k ≤ n) : t.AllOk k :=
  fun j hj => h j (by omega)

theorem Transport.AllOk.drop {t : Transport} {n k : Nat} (h : t.AllOk (n + k)) : (t.drop n).AllOk k :=
  fun j hj => by rw [Transport.answer_drop]; exact h _ (by omega)

/-- What issuing one transaction can do. -/
theorem State.emit_eq (s : State) (t : Txn) :
    s.emit t = match s.transport.answer 0 with
      | .ok => .done (s.sent [t])
      | .fail => .failed (s.sentFailed t)
      | .never => .waiting (s.sentUnanswered t) := by
  unfold State.emit
  rw [Transport.next_eq]
  cases s.transport.answer 0 <;> rfl

@[simp] theorem State.sent_nil (s : State) : s.sent [] = s := by
  obtain ⟨⟩ := s
  simp [State.sent]

@[simp] theorem State.sent_sent (s : State) (a b : List Txn) : (s.sent a).sent b = s.sent (a ++ b) := by
  simp [State.sent, List.foldl_append, Nat.add_assoc]

theorem State.sent_atPage (s : State) (ts : List Txn) (p : Nat) : (s.atPage p).sent ts = (s.sent ts).atPage p := rfl

@[simp] theorem State.atPage_atPage (s : State) (p q : Nat) : (s.atPage p).atPage q = s.atPage q := rfl

/-- A list of transactions all answered `ok`. -/
theorem emitAll_ok {ts : List Txn} {s : State} (h : s.transport.AllOk ts.length) :
    emitAll ts s = .done (s.sent ts) := by
  induction ts generalizing s with
  | nil => simp [emitAll]
  | cons t ts ih =>
    have h0 : s.transport.answer 0 = .ok := h 0 (by simp)
    simp only [emitAll, State.emit_eq, h0, Io.bind]
    rw [ih]
    · simp
    · intro k hk
      simp only [State.sent_transport, List.length_singleton, Transport.answer_drop]
      exact h _ (by simp; omega)

/-- A list of transactions of which number `k` is answered `fail`: none after it is issued. -/
theorem emitAll_fails {ts : List Txn} {s : State} {k : Nat} (hk : k < ts.length) (h : s.transport.FailsAt k) :
    emitAll ts s = .failed ((s.sent (ts.take k)).sentFailed ts[k]) := by
  induction ts generalizing s k with
  | nil => simp at hk
  | cons t ts ih =>
    cases k with
    | zero =>
      have h0 : s.transport.answer 0 = .fail := h.2
      simp [emitAll, State.emit_eq, h0, Io.bind]
    | succ k =>
      have h0 : s.transport.answer 0 = .ok := h.1 0 (by omega)
      simp only [emitAll, State.emit_eq, h0, Io.bind]
      rw [ih (k := k) (by simpa using hk)]
      · simp
      · refine ⟨fun j hj => ?_, ?_⟩
        · simp only [State.sent_transport, List.length_singleton, Transport.answer_drop]
          exact h.1 _ (by omega)
        · simp only [State.sent_transport, List.length_singleton, Transport.answer_drop]
          rw [Nat.add_comm]; exact h.2

/-- A list of transactions of which number `k` is never answered: none after it is issued. -/
theorem emitAll_hangs {ts : List Txn} {s : State} {k : Nat} (hk : k < ts.length) (h : s.transport.HangsAt k) :
    emitAll ts s = .waiting ((s.sent (ts.take k)).sentUnanswered ts[k]) := by
  induction ts generalizing s k with
  | nil => simp at hk
  | cons t ts ih =>
    cases k with
    | zero =>
      have h0 : s.transport.answer 0 = .never := h.2
      simp [emitAll, State.emit_eq, h0, Io.bind]
    | succ k =>
      have h0 : s.transport.answer 0 = .ok := h.1 0 (by omega)
      simp only [emitAll, State.emit_eq, h0, Io.bind]
      rw [ih (k := k) (by simpa using hk)]
      · simp
      · refine ⟨fun j hj => ?_, ?_⟩
        · simp only [State.sent_transport, List.length_singleton, Transport.answer_drop]
          exact h.1 _ (by omega)
        · simp only [State.sent_transport, List.length_singleton, Transport.answer_drop]
          rw [Nat.add_comm]; exact h.2

/-- All that a list of transactions can do. -/
theorem emitAll_cases (ts : List Txn) (s : State) :
    emitAll ts s = .done (s.sent ts) ∨
      (∃ pre t post, ts = pre ++ t :: post ∧ emitAll ts s = .failed ((s.sent pre).sentFailed t)) ∨
      (∃ pre t post, ts = pre ++ t :: post ∧ emitAll ts s = .waiting ((s.sent pre).sentUnanswered t)) := by
  induction ts generalizing s with
  | nil => exact .inl (by simp [emitAll])
  | cons t ts ih =>
    simp only [emitAll, State.emit_eq]
    cases s.transport.answer 0 with
    | ok =>
      rcases ih (s.sent [t]) with h | ⟨pre, u, post, hts, h⟩ | ⟨pre, u, post, hts, h⟩
      · exact .inl (by simp [Io.bind, h])
      · exact .inr (.inl ⟨t :: pre, u, post, by simp [hts], by simp [Io.bind, h]⟩)
      · exact .inr (.inr ⟨t :: pre, u, post, by simp [hts], by simp [Io.bind, h]⟩)
    | fail => exact .inr (.inl ⟨[], t, ts, rfl, by simp [Io.bind]⟩)
    | never => exact .inr (.inr ⟨[], t, ts, rfl, by simp [Io.bind]⟩)

theorem emitAll_append (a b : List Txn) (s : State) : emitAll (a ++ b) s = (emitAll a s).bind (emitAll b) := by
  induction a generalizing s with
  | nil => rfl
  | cons t a ih =>
    simp only [List.cons_append, emitAll]
    cases s.emit t <;> simp [Io.bind, ih]

/-! ## FLUSH -/

/-- The page loop with every transaction answered `ok`. -/
theorem emitPages_ok {w : Window} {pages : List Nat} {s : State}
    (h : s.transport.AllOk (pages.flatMap (pageTxns s.cfg s.fb w)).length) :
    ∃ pg, emitPages w pages s = .done ((s.sent (pages.flatMap (pageTxns s.cfg s.fb w))).atPage pg) := by
  induction pages generalizing s with
  | nil => exact ⟨s.seq.page, by simp [emitPages, State.atPage]⟩
  | cons p pages ih =>
    rw [List.flatMap_cons, List.length_append] at h
    simp only [emitPages]
    rw [emitAll_ok (ts := pageTxns s.cfg s.fb w p) (s := s.atPage p) (h.mono (by omega))]
    have hd : ((s.atPage p).sent (pageTxns s.cfg s.fb w p)).transport.AllOk
        (pages.flatMap (pageTxns s.cfg s.fb w)).length := h.drop
    obtain ⟨pg, e⟩ := ih (s := (s.atPage p).sent (pageTxns s.cfg s.fb w p)) hd
    refine ⟨pg, ?_⟩
    simp only [Io.bind, e]
    simp [State.sent_atPage]

/-- All that the page loop can do. -/
theorem emitPages_cases (w : Window) (pages : List Nat) (s : State) :
    (∃ pg, emitPages w pages s = .done ((s.sent (pages.flatMap (pageTxns s.cfg s.fb w))).atPage pg)) ∨
      (∃ pg pre t post, pages.flatMap (pageTxns s.cfg s.fb w) = pre ++ t :: post ∧
        emitPages w pages s = .failed (((s.sent pre).atPage pg).sentFailed t)) ∨
      (∃ pg pre t post, pages.flatMap (pageTxns s.cfg s.fb w) = pre ++ t :: post ∧
        emitPages w pages s = .waiting (((s.sent pre).atPage pg).sentUnanswered t)) := by
  induction pages generalizing s with
  | nil => exact .inl ⟨s.seq.page, by simp [emitPages, State.atPage]⟩
  | cons p pages ih =>
    simp only [emitPages, List.flatMap_cons]
    rcases emitAll_cases (pageTxns s.cfg s.fb w p) (s.atPage p) with h | ⟨pre, t, post, hts, h⟩ | ⟨pre, t, post, hts, h⟩
    · simp only [h, Io.bind]
      rcases ih ((s.atPage p).sent (pageTxns s.cfg s.fb w p)) with ⟨pg, e⟩ | ⟨pg, pre, t, post, hts, e⟩ |
        ⟨pg, pre, t, post, hts, e⟩
      · exact .inl ⟨pg, by rw [e]; simp [State.sent_atPage]⟩
      · refine .inr (.inl ⟨pg, pageTxns s.cfg s.fb w p ++ pre, t, post, ?_, ?_⟩)
        · simp only [State.sent_cfg, State.atPage_cfg, State.sent_fb, State.atPage_fb] at hts
          simp [hts]
        · rw [e]; simp [State.sent_atPage]
      · refine .inr (.inr ⟨pg, pageTxns s.cfg s.fb w p ++ pre, t, post, ?_, ?_⟩)
        · simp only [State.sent_cfg, State.atPage_cfg, State.sent_fb, State.atPage_fb] at hts
          simp [hts]
        · rw [e]; simp [State.sent_atPage]
    · exact .inr (.inl ⟨p, pre, t, post ++ pages.flatMap (pageTxns s.cfg s.fb w), by simp [hts],
        by simp [h, Io.bind, State.sent_atPage]⟩)
    · exact .inr (.inr ⟨p, pre, t, post ++ pages.flatMap (pageTxns s.cfg s.fb w), by simp [hts],
        by simp [h, Io.bind, State.sent_atPage]⟩)

/-- The page loop with transaction number `k` answered `fail`: none after it is issued. -/
theorem emitPages_fails {w : Window} {pages : List Nat} {s : State} {k : Nat}
    (hk : k < (pages.flatMap (pageTxns s.cfg s.fb w)).length) (h : s.transport.FailsAt k) :
    ∃ pg, emitPages w pages s = .failed
      (((s.sent ((pages.flatMap (pageTxns s.cfg s.fb w)).take k)).atPage pg).sentFailed
        (pages.flatMap (pageTxns s.cfg s.fb w))[k]) := by
  induction pages generalizing s k with
  | nil => simp at hk
  | cons p pages ih =>
    simp only [emitPages, List.flatMap_cons]
    by_cases hp : k < (pageTxns s.cfg s.fb w p).length
    · refine ⟨p, ?_⟩
      rw [emitAll_fails (ts := pageTxns s.cfg s.fb w p) (s := s.atPage p) hp h]
      simp only [Io.bind, List.take_append_of_le_length (Nat.le_of_lt hp), List.getElem_append_left hp]
      rfl
    · rw [emitAll_ok (ts := pageTxns s.cfg s.fb w p) (s := s.atPage p) fun j hj => h.1 j (by omega)]
      simp only [Io.bind]
      have hk' : k - (pageTxns s.cfg s.fb w p).length < (pages.flatMap (pageTxns s.cfg s.fb w)).length := by
        rw [List.flatMap_cons, List.length_append] at hk; omega
      have hf : ((s.atPage p).sent (pageTxns s.cfg s.fb w p)).transport.FailsAt
          (k - (pageTxns s.cfg s.fb w p).length) := by
        refine ⟨fun j hj => ?_, ?_⟩
        · rw [State.sent_transport, Transport.answer_drop]
          exact h.1 _ (by omega)
        · rw [State.sent_transport, Transport.answer_drop, Nat.add_sub_cancel' (by omega)]
          exact h.2
      obtain ⟨pg, e⟩ := ih (s := (s.atPage p).sent (pageTxns s.cfg s.fb w p)) hk' hf
      refine ⟨pg, ?_⟩
      rw [e]
      simp only [State.sent_cfg, State.sent_fb, State.atPage_cfg, State.atPage_fb]
      rw [List.getElem_append_right (by omega), List.take_append,
        List.take_of_length_le (show (pageTxns s.cfg s.fb w p).length ≤ k by omega), State.sent_sent]
      rfl

/-- The page loop with transaction number `k` never answered: none after it is issued. -/
theorem emitPages_hangs {w : Window} {pages : List Nat} {s : State} {k : Nat}
    (hk : k < (pages.flatMap (pageTxns s.cfg s.fb w)).length) (h : s.transport.HangsAt k) :
    ∃ pg, emitPages w pages s = .waiting
      (((s.sent ((pages.flatMap (pageTxns s.cfg s.fb w)).take k)).atPage pg).sentUnanswered
        (pages.flatMap (pageTxns s.cfg s.fb w))[k]) := by
  induction pages generalizing s k with
  | nil => simp at hk
  | cons p pages ih =>
    simp only [emitPages, List.flatMap_cons]
    by_cases hp : k < (pageTxns s.cfg s.fb w p).length
    · refine ⟨p, ?_⟩
      rw [emitAll_hangs (ts := pageTxns s.cfg s.fb w p) (s := s.atPage p) hp h]
      simp only [Io.bind, List.take_append_of_le_length (Nat.le_of_lt hp), List.getElem_append_left hp]
      rfl
    · rw [emitAll_ok (ts := pageTxns s.cfg s.fb w p) (s := s.atPage p) fun j hj => h.1 j (by omega)]
      simp only [Io.bind]
      have hk' : k - (pageTxns s.cfg s.fb w p).length < (pages.flatMap (pageTxns s.cfg s.fb w)).length := by
        rw [List.flatMap_cons, List.length_append] at hk; omega
      have hf : ((s.atPage p).sent (pageTxns s.cfg s.fb w p)).transport.HangsAt
          (k - (pageTxns s.cfg s.fb w p).length) := by
        refine ⟨fun j hj => ?_, ?_⟩
        · rw [State.sent_transport, Transport.answer_drop]
          exact h.1 _ (by omega)
        · rw [State.sent_transport, Transport.answer_drop, Nat.add_sub_cancel' (by omega)]
          exact h.2
      obtain ⟨pg, e⟩ := ih (s := (s.atPage p).sent (pageTxns s.cfg s.fb w p)) hk' hf
      refine ⟨pg, ?_⟩
      rw [e]
      simp only [State.sent_cfg, State.sent_fb, State.atPage_cfg, State.atPage_fb]
      rw [List.getElem_append_right (by omega), List.take_append,
        List.take_of_length_le (show (pageTxns s.cfg s.fb w p).length ≤ k by omega), State.sent_sent]
      rfl

/-- FLUSH of an empty window does nothing (43_sequencer.md R146). -/
theorem State.flush_empty {s : State} (h : s.dw.isEmpty = true) : s.flush = .done s := by
  unfold State.flush; rw [if_pos h]

/-- FLUSH of a window that is not empty, every transaction answered `ok` (R138). -/
theorem State.flush_ok {s : State} (h : s.dw.isEmpty = false)
    (ha : s.transport.AllOk (flushTxns s.cfg s.fb s.dw).length) :
    s.flush = .done ((s.sent (flushTxns s.cfg s.fb s.dw)).atPage 0).resetWindow := by
  unfold State.flush
  rw [if_neg (by simp [h])]
  obtain ⟨pg, e⟩ := emitPages_ok (w := s.dw) (pages := s.dw.pages) (s := s) ha
  rw [e]
  rfl

/-- FLUSH with transaction number `k` answered `fail`: DW stays (R144). -/
theorem State.flush_fails {s : State} {k : Nat} (h : s.dw.isEmpty = false)
    (hk : k < (flushTxns s.cfg s.fb s.dw).length) (hf : s.transport.FailsAt k) :
    ∃ pg, s.flush = .failed
      (((s.sent ((flushTxns s.cfg s.fb s.dw).take k)).atPage pg).sentFailed (flushTxns s.cfg s.fb s.dw)[k]) := by
  unfold State.flush
  rw [if_neg (by simp [h])]
  obtain ⟨pg, e⟩ := emitPages_fails (w := s.dw) (pages := s.dw.pages) (s := s) hk hf
  exact ⟨pg, by rw [e]; rfl⟩

/-- FLUSH with transaction number `k` never answered: DW stays (R144). -/
theorem State.flush_hangs {s : State} {k : Nat} (h : s.dw.isEmpty = false)
    (hk : k < (flushTxns s.cfg s.fb s.dw).length) (hf : s.transport.HangsAt k) :
    ∃ pg, s.flush = .waiting
      (((s.sent ((flushTxns s.cfg s.fb s.dw).take k)).atPage pg).sentUnanswered (flushTxns s.cfg s.fb s.dw)[k]) := by
  unfold State.flush
  rw [if_neg (by simp [h])]
  obtain ⟨pg, e⟩ := emitPages_hangs (w := s.dw) (pages := s.dw.pages) (s := s) hk hf
  exact ⟨pg, by rw [e]; rfl⟩

/-- All that FLUSH can do: DW is reset after the last page and untouched otherwise (R144). -/
theorem State.flush_cases (s : State) :
    (s.dw.isEmpty = true ∧ s.flush = .done s) ∨
      (s.dw.isEmpty = false ∧
        (s.flush = .done ((s.sent (flushTxns s.cfg s.fb s.dw)).atPage 0).resetWindow ∨
          (∃ pg pre t post, flushTxns s.cfg s.fb s.dw = pre ++ t :: post ∧
            s.flush = .failed (((s.sent pre).atPage pg).sentFailed t)) ∨
          (∃ pg pre t post, flushTxns s.cfg s.fb s.dw = pre ++ t :: post ∧
            s.flush = .waiting (((s.sent pre).atPage pg).sentUnanswered t)))) := by
  cases h : s.dw.isEmpty
  · refine .inr ⟨rfl, ?_⟩
    unfold State.flush
    rw [if_neg (by simp [h])]
    rcases emitPages_cases s.dw s.dw.pages s with ⟨pg, e⟩ | ⟨pg, pre, t, post, hts, e⟩ | ⟨pg, pre, t, post, hts, e⟩
    · exact .inl (by rw [e]; rfl)
    · exact .inr (.inl ⟨pg, pre, t, post, hts, by rw [e]; rfl⟩)
    · exact .inr (.inr ⟨pg, pre, t, post, hts, by rw [e]; rfl⟩)
  · exact .inl ⟨rfl, State.flush_empty h⟩

/-- A wire command issued on its own, answered `ok`. -/
theorem State.issueWire_ok {s : State} {i : Instr} (h : s.transport.answer 0 = .ok) :
    s.issueWire i = (s.sent [wireTxn s.cfg.wc i]).deliver .ok := by
  simp [State.issueWire, State.emit_eq, h, Io.finish]

/-- All that issuing a wire command can do. -/
theorem State.issueWire_cases (s : State) (i : Instr) :
    s.issueWire i = (s.sent [wireTxn s.cfg.wc i]).deliver .ok ∨
      s.issueWire i = (s.sentFailed (wireTxn s.cfg.wc i)).deliver .eTransport ∨
      s.issueWire i = s.sentUnanswered (wireTxn s.cfg.wc i) := by
  unfold State.issueWire
  rw [State.emit_eq]
  cases s.transport.answer 0 <;> simp [Io.finish]

/-- What a step finds, and so all that a step can do but for the instruction's own meaning. -/
theorem State.fetch_cases (s : State) :
    (s.inputs = [] ∧ s.opReady = true ∧ s.fetch = .idle) ∨
      (s.opReady = false ∧ s.fetch = .stuck) ∨
      (∃ rest, s.inputs = .rst :: rest ∧ s.fetch = .reset { s.assertReset with inputs := rest }) ∨
      (∃ w rest e, s.inputs = .word (.host w) :: rest ∧ s.opReady = true ∧ decodeHost w = .error e ∧
        s.fetch = .illegal ((s.accept none rest).deliver .eIllegal)) ∨
      (∃ w rest i, s.inputs = .word w :: rest ∧ s.opReady = true ∧ decode s.cfg w = .ok i ∧
        s.fetch = .run i (s.accept (some i) rest)) ∨
      (∃ bs rest e, s.inputs = .word (.wire bs) :: rest ∧ s.opReady = true ∧
        decodeWireWord s.cfg.wc bs = .error e ∧ s.fetch = .noCommand) := by
  unfold State.fetch
  cases hi : s.inputs with
  | nil => cases h : s.opReady <;> simp
  | cons x rest =>
    cases x with
    | rst => exact .inr (.inr (.inl ⟨rest, rfl, rfl⟩))
    | word w =>
      cases h : s.opReady with
      | false => exact .inr (.inl ⟨rfl, by simp⟩)
      | true =>
        cases hd : decode s.cfg w with
        | ok i =>
          refine .inr (.inr (.inr (.inr (.inl ⟨w, rest, i, rfl, rfl, hd, ?_⟩))))
          simp only [hd, if_true]
        | error e =>
          cases w with
          | host w =>
            refine .inr (.inr (.inr (.inl ⟨w, rest, e, rfl, rfl, hd, ?_⟩)))
            simp only [hd, if_true]
          | wire bs =>
            refine .inr (.inr (.inr (.inr (.inr ⟨bs, rest, e, rfl, rfl, hd, ?_⟩))))
            simp only [hd, if_true]

end Sys2Proof.Machine
end

