-- ==== Sys2Proof/Laws/Memory.lean ====
section
/-! SUPPORT. The laws of byte memories: a read after a set, an erase or a write, and that every operation keeps the
canonical form. -/

namespace Sys2Proof.Machine

theorem Memory.get?_set (m : Memory) (a x : Nat) (b : Byte) :
    (m.set a b).get? x = if x = a then some b else m.get? x := by
  induction m with
  | nil => simp [Memory.set, Memory.get?, eq_comm]
  | cons c m ih =>
    obtain ⟨k, v⟩ := c
    unfold Memory.set
    split
    · simp only [Memory.get?]; grind
    · split <;> simp only [Memory.get?, ih] <;> grind

theorem Memory.get?_erase_other (m : Memory) {a x : Nat} (h : x ≠ a) : (m.erase a).get? x = m.get? x := by
  induction m with
  | nil => rfl
  | cons c m ih =>
    obtain ⟨k, v⟩ := c
    unfold Memory.erase
    split <;> simp only [Memory.get?, ih] <;> grind

theorem Memory.rising_cons (k : Nat) (v : Byte) (m : Memory) :
    Memory.rising ((k, v) :: m) = true ↔ (∀ c ∈ m, k < c.1) ∧ m.rising = true := by
  induction m generalizing k v with
  | nil => simp [Memory.rising]
  | cons c m ih =>
    obtain ⟨k', v'⟩ := c
    simp only [Memory.rising, Bool.and_eq_true, decide_eq_true_eq, List.mem_cons, forall_eq_or_imp, ih]
    constructor
    · rintro ⟨h, h1, h2⟩
      exact ⟨⟨h, fun c hc => lt_trans h (h1 c hc)⟩, h1, h2⟩
    · rintro ⟨⟨h, _⟩, h1, h2⟩
      exact ⟨h, h1, h2⟩

theorem Memory.mem_set {m : Memory} {a : Nat} {b : Byte} {c : Host.Cell} (h : c ∈ m.set a b) :
    c = (a, b) ∨ c ∈ m := by
  induction m with
  | nil => simpa [Memory.set] using h
  | cons d m ih =>
    obtain ⟨k, v⟩ := d
    unfold Memory.set at h
    split at h
    · simpa using h
    · split at h <;> simp only [List.mem_cons] at h ⊢ <;> grind

theorem Memory.mem_erase {m : Memory} {a : Nat} {c : Host.Cell} (h : c ∈ m.erase a) : c ∈ m := by
  induction m with
  | nil => exact h
  | cons d m ih =>
    obtain ⟨k, v⟩ := d
    unfold Memory.erase at h
    split at h <;> simp only [List.mem_cons] at h ⊢ <;> grind

theorem Memory.rising_set {m : Memory} (h : m.rising = true) (a : Nat) (b : Byte) : (m.set a b).rising = true := by
  induction m with
  | nil => rfl
  | cons c m ih =>
    obtain ⟨k, v⟩ := c
    obtain ⟨h1, h2⟩ := (rising_cons k v m).mp h
    unfold Memory.set
    split
    · rename_i hk
      exact (rising_cons a b _).mpr ⟨by intro c hc; rcases List.mem_cons.mp hc with rfl | hc
                                        · exact hk
                                        · exact lt_trans hk (h1 c hc), h⟩
    · split
      · rename_i hk; subst hk
        exact (rising_cons a b m).mpr ⟨h1, h2⟩
      · refine (rising_cons k v _).mpr ⟨fun c hc => ?_, ih h2⟩
        rcases mem_set hc with rfl | hc
        · simp only; omega
        · exact h1 c hc

theorem Memory.rising_erase {m : Memory} (h : m.rising = true) (a : Nat) : (m.erase a).rising = true := by
  induction m with
  | nil => rfl
  | cons c m ih =>
    obtain ⟨k, v⟩ := c
    obtain ⟨h1, h2⟩ := (rising_cons k v m).mp h
    unfold Memory.erase
    split
    · exact h2
    · exact (rising_cons k v _).mpr ⟨fun c hc => h1 c (mem_erase hc), ih h2⟩

theorem Memory.get?_none_of_lt {m : Memory} {a : Nat} (h : ∀ c ∈ m, a < c.1) : m.get? a = none := by
  induction m with
  | nil => rfl
  | cons c m ih =>
    obtain ⟨k, v⟩ := c
    have := h (k, v) (by simp)
    simp only [Memory.get?]
    rw [if_neg (by simp only at this; omega)]
    exact ih fun c hc => h c (by simp [hc])

theorem Memory.get?_erase_same {m : Memory} (h : m.rising = true) (a : Nat) : (m.erase a).get? a = none := by
  induction m with
  | nil => rfl
  | cons c m ih =>
    obtain ⟨k, v⟩ := c
    obtain ⟨h1, h2⟩ := (rising_cons k v m).mp h
    unfold Memory.erase
    split
    · rename_i hk; subst hk; exact get?_none_of_lt h1
    · rename_i hk; simp only [Memory.get?, if_neg hk]; exact ih h2

theorem Memory.mem_erase_ne {m : Memory} (h : m.rising = true) {a : Nat} {c : Host.Cell} (hc : c ∈ m.erase a) :
    c.1 ≠ a := by
  induction m with
  | nil => cases hc
  | cons d m ih =>
    obtain ⟨k, v⟩ := d
    obtain ⟨h1, h2⟩ := (rising_cons k v m).mp h
    unfold Memory.erase at hc
    split at hc
    · have := h1 c hc; omega
    · rcases List.mem_cons.mp hc with rfl | hc
      · simpa using ‹¬ k = a›
      · exact ih h2 hc

theorem Memory.wf_iff {size : Nat} {dflt : Nat → Byte} {m : Memory} :
    Memory.wf size dflt m = true ↔ m.rising = true ∧ ∀ c ∈ m, c.1 < size ∧ c.2 ≠ dflt c.1 := by
  simp [Memory.wf]

/-- Writing keeps the canonical form. -/
theorem Memory.wf_write {size : Nat} {dflt : Nat → Byte} {m : Memory} (h : Memory.wf size dflt m = true)
    {a : Nat} (ha : a < size) (b : Byte) : Memory.wf size dflt (m.write (dflt a) a b) = true := by
  obtain ⟨h1, h2⟩ := wf_iff.mp h
  unfold Memory.write
  split
  · exact wf_iff.mpr ⟨rising_erase h1 a, fun c hc => h2 c (mem_erase hc)⟩
  · rename_i hb
    refine wf_iff.mpr ⟨rising_set h1 a b, fun c hc => ?_⟩
    rcases mem_set hc with rfl | hc
    · exact ⟨ha, hb⟩
    · exact h2 c hc

/-- The read after a write. -/
theorem fbRead_fbWrite {p : Params} {m : Memory} (h : m.rising = true) (i j : Nat) (b : Byte) :
    fbRead p (fbWrite p m i b) j = if j = i then b else fbRead p m j := by
  unfold fbRead fbWrite Memory.write
  split
  · split
    · subst_vars; simp [Memory.get?_erase_same h]
    · rename_i hj; rw [Memory.get?_erase_other m hj]
  · rw [Memory.get?_set]; split <;> simp

/-- A write leaves every other byte alone, whatever the list. -/
theorem fbRead_fbWrite_other {p : Params} {m : Memory} {i j : Nat} (h : j ≠ i) (b : Byte) :
    fbRead p (fbWrite p m i b) j = fbRead p m j := by
  unfold fbRead fbWrite Memory.write
  split
  · rw [Memory.get?_erase_other m h]
  · rw [Memory.get?_set, if_neg h]

theorem rising_fbWrite {p : Params} {m : Memory} (h : m.rising = true) (i : Nat) (b : Byte) :
    (fbWrite p m i b).rising = true := by
  unfold fbWrite Memory.write
  split
  · exact Memory.rising_erase h i
  · exact Memory.rising_set h i b

theorem rising_fbModify {p : Params} {c : Colour} {m : Memory} (h : m.rising = true) (i : Nat) (k : Byte) :
    (fbModify p c m i k).rising = true := rising_fbWrite h i _

/-- The read after a read-modify-write. -/
theorem fbRead_fbModify {p : Params} {c : Colour} {m : Memory} (h : m.rising = true) (i j : Nat) (k : Byte) :
    fbRead p (fbModify p c m i k) j = if j = i then c.apply (fbRead p m i) k else fbRead p m j :=
  fbRead_fbWrite h i j _

/-- Two canonical memories that list the same bytes are the same list. -/
theorem Memory.ext_of_rising {m n : Memory} (hm : m.rising = true) (hn : n.rising = true)
    (h : ∀ a, m.get? a = n.get? a) : m = n := by
  induction m generalizing n with
  | nil =>
    cases n with
    | nil => rfl
    | cons d n => obtain ⟨k, v⟩ := d; have := h k; simp [Memory.get?] at this
  | cons c m ih =>
    obtain ⟨k, v⟩ := c
    obtain ⟨h1, h2⟩ := (rising_cons k v m).mp hm
    cases n with
    | nil => have := h k; simp [Memory.get?] at this
    | cons d n =>
      obtain ⟨k', v'⟩ := d
      obtain ⟨h1', h2'⟩ := (rising_cons k' v' n).mp hn
      have key : k = k' := by
        by_contra hne
        rcases Nat.lt_or_gt_of_ne hne with hlt | hlt
        · have := h k
          have hn' : Memory.get? n k = none := get?_none_of_lt fun c hc => lt_trans hlt (h1' c hc)
          simp only [Memory.get?, if_true, hn'] at this
          rw [if_neg (by omega)] at this; cases this
        · have := h k'
          have hm' : Memory.get? m k' = none := get?_none_of_lt fun c hc => lt_trans hlt (h1 c hc)
          simp only [Memory.get?, if_true, hm'] at this
          rw [if_neg (by omega)] at this; cases this
      subst key
      have hv : v = v' := by have := h k; simpa [Memory.get?] using this
      subst hv
      congr 1
      refine ih h2 h2' fun a => ?_
      by_cases ha : k = a
      · subst ha; rw [get?_none_of_lt h1, get?_none_of_lt h1']
      · have := h a; simpa [Memory.get?, ha] using this

theorem Memory.get?_of_mem {m : Memory} (h : m.rising = true) {c : Host.Cell} (hc : c ∈ m) : m.get? c.1 = some c.2 := by
  induction m with
  | nil => cases hc
  | cons d m ih =>
    obtain ⟨k, v⟩ := d
    obtain ⟨h1, h2⟩ := (rising_cons k v m).mp h
    rcases List.mem_cons.mp hc with rfl | hc
    · simp [Memory.get?]
    · have := h1 c hc
      simp only [Memory.get?]; rw [if_neg (by omega)]; exact ih h2 hc

theorem Memory.mem_of_get? {m : Memory} {a : Nat} {b : Byte} (h : m.get? a = some b) : (a, b) ∈ m := by
  induction m with
  | nil => cases h
  | cons d m ih =>
    obtain ⟨k, v⟩ := d
    simp only [Memory.get?] at h
    split at h
    · cases h; subst_vars; simp
    · exact List.mem_cons_of_mem _ (ih h)

/-- Two canonical framebuffers that read alike are the same list. -/
theorem fb_ext {p : Params} {size : Nat} {m n : Memory} (hm : Memory.wf size (fbDefault p) m = true)
    (hn : Memory.wf size (fbDefault p) n = true) (h : ∀ i, fbRead p m i = fbRead p n i) : m = n := by
  obtain ⟨m1, m2⟩ := Memory.wf_iff.mp hm
  obtain ⟨n1, n2⟩ := Memory.wf_iff.mp hn
  refine Memory.ext_of_rising m1 n1 fun a => ?_
  have ha := h a
  unfold fbRead at ha
  cases e1 : Memory.get? m a with
  | none =>
    cases e2 : Memory.get? n a with
    | none => rfl
    | some v =>
      rw [e1, e2] at ha
      exact absurd ha.symm (n2 _ (Memory.mem_of_get? e2)).2
  | some v =>
    cases e2 : Memory.get? n a with
    | none =>
      rw [e1, e2] at ha
      exact absurd ha (m2 _ (Memory.mem_of_get? e1)).2
    | some w => rw [e1, e2] at ha; simpa using ha

end Sys2Proof.Machine
end

