-- ==== Sys2Proof/Laws/Draw.lean ====
section
/-! SUPPORT. The laws of drawing: the address decoder, one pixel, a run of pixels, and what the two primitives and
the mapper leave unchanged. -/

namespace Sys2Proof

theorem Geometry.width_pos (g : Geometry) : 0 < g.width := g.width_legal.1

theorem Geometry.height_pos (g : Geometry) : 0 < g.height := g.height_legal.1

theorem Geometry.page_lt (g : Geometry) {y : Nat} (h : y < g.height) : y / 8 < g.pages := by
  unfold Geometry.pages; omega

/-- An in-range pixel has an in-range byte (20_memory.md R37). -/
theorem Geometry.index_lt (g : Geometry) {x y : Nat} (hx : x < g.width) (hy : y < g.height) :
    g.index x y < g.fbSize := by
  have h := g.page_lt hy
  unfold Geometry.index Geometry.fbSize
  calc x + y / 8 * g.width < g.width + y / 8 * g.width := by omega
    _ = (y / 8 + 1) * g.width := by ring
    _ ≤ g.pages * g.width := Nat.mul_le_mul_right _ h
    _ = g.width * g.pages := Nat.mul_comm _ _

/-- The decoder separates columns and pages (R38). -/
theorem Geometry.index_inj (g : Geometry) {x y x' y' : Nat} (hx : x < g.width) (hx' : x' < g.width) :
    g.index x y = g.index x' y' ↔ x = x' ∧ y / 8 = y' / 8 := by
  unfold Geometry.index
  constructor
  · intro h
    have hd : y / 8 = y' / 8 := by
      have := congrArg (· / g.width) h
      simpa [Nat.add_mul_div_right _ _ g.width_pos, Nat.div_eq_of_lt hx, Nat.div_eq_of_lt hx'] using this
    exact ⟨by rw [hd] at h; omega, hd⟩
  · rintro ⟨rfl, h⟩; rw [h]

theorem bitmask_getLsbD (y k : Nat) (hk : k < 8) : (bitmask y).getLsbD k = decide (k = y % 8) := by
  have hy : y % 8 < 8 := Nat.mod_lt _ (by omega)
  unfold bitmask
  generalize y % 8 = j at hy
  interval_cases j <;> interval_cases k <;> rfl

/-- The colour operation bit by bit (40_framebuffer.md R101). -/
theorem Colour.apply_getLsbD (c : Colour) (b m : Byte) (k : Nat) (hk : k < 8) :
    (c.apply b m).getLsbD k = if m.getLsbD k then c.bit (b.getLsbD k) else b.getLsbD k := by
  cases c <;> simp only [Colour.apply, Colour.bit, BitVec.getLsbD_or, BitVec.getLsbD_and, BitVec.getLsbD_not,
    BitVec.getLsbD_xor, hk, decide_true, Bool.true_and] <;> cases m.getLsbD k <;> simp

namespace Machine

theorem rising_plot {p : Params} {c : Colour} {m : Memory} (h : m.rising = true) (x y : Nat) :
    (plot p c m x y).rising = true := rising_fbModify h _ _

theorem wf_fbModify {p : Params} {m : Memory} (h : Memory.wf p.geometry.fbSize (fbDefault p) m = true)
    (c : Colour) {i : Nat} (hi : i < p.geometry.fbSize) (k : Byte) :
    Memory.wf p.geometry.fbSize (fbDefault p) (fbModify p c m i k) = true := Memory.wf_write h hi _

/-- One plotted pixel: it takes the colour, and every other pixel of the buffer is unchanged. -/
theorem pixel_plot {p : Params} {m : Memory} (h : m.rising = true) (c : Colour) {x y x' y' : Nat}
    (hx : x < p.geometry.width) (hx' : x' < p.geometry.width) :
    pixel p (plot p c m x y) x' y' = if x' = x ∧ y' = y then c.bit (pixel p m x y) else pixel p m x' y' := by
  unfold pixel plot
  have hk' : y' % 8 < 8 := Nat.mod_lt _ (by omega)
  rw [fbRead_fbModify h]
  by_cases hi : p.geometry.index x' y' = p.geometry.index x y
  · obtain ⟨rfl, hp⟩ := (p.geometry.index_inj hx' hx).mp hi
    rw [if_pos hi, Colour.apply_getLsbD _ _ _ _ hk', bitmask_getLsbD y _ hk']
    by_cases hy : y' = y
    · subst hy; simp
    · have : y' % 8 ≠ y % 8 := by omega
      simp [hy, this, hi]
  · have : ¬ (x' = x ∧ y' = y) := fun ⟨h1, h2⟩ => hi (by rw [h1, h2])
    rw [if_neg hi, if_neg this]

theorem rising_hrunCells {p : Params} (c : Colour) (xa y n : Nat) {m : Memory} (h : m.rising = true) :
    (hrunCells p c xa y n m).rising = true := by
  unfold hrunCells
  induction n with
  | zero => exact h
  | succ n ih => rw [List.range_succ, List.foldl_append]; exact rising_plot ih _ _

theorem rising_vrunCells {p : Params} (c : Colour) (x ya n : Nat) {m : Memory} (h : m.rising = true) :
    (vrunCells p c x ya n m).rising = true := by
  unfold vrunCells
  induction n with
  | zero => exact h
  | succ n ih => rw [List.range_succ, List.foldl_append]; exact rising_plot ih _ _

/-- The loop of FB_HRUN keeps the canonical form. -/
theorem wf_hrunCells {p : Params} (c : Colour) {xa y n : Nat} {m : Memory}
    (h : Memory.wf p.geometry.fbSize (fbDefault p) m = true)
    (hx : xa + n ≤ p.geometry.width) (hy : y < p.geometry.height) :
    Memory.wf p.geometry.fbSize (fbDefault p) (hrunCells p c xa y n m) = true := by
  unfold hrunCells
  induction n with
  | zero => exact h
  | succ n ih =>
    rw [List.range_succ, List.foldl_append]
    exact wf_fbModify (ih (by omega)) c (p.geometry.index_lt (by omega) hy) _

/-- The loop of FB_VRUN keeps the canonical form. -/
theorem wf_vrunCells {p : Params} (c : Colour) {x ya n : Nat} {m : Memory}
    (h : Memory.wf p.geometry.fbSize (fbDefault p) m = true)
    (hx : x < p.geometry.width) (hy : ya + n ≤ p.geometry.height) :
    Memory.wf p.geometry.fbSize (fbDefault p) (vrunCells p c x ya n m) = true := by
  unfold vrunCells
  induction n with
  | zero => exact h
  | succ n ih =>
    rw [List.range_succ, List.foldl_append]
    exact wf_fbModify (ih (by omega)) c (p.geometry.index_lt hx (by omega)) _

/-- The pixels of the loop of FB_HRUN. -/
theorem pixel_hrunCells {p : Params} {m : Memory} (h : m.rising = true) (c : Colour) {xa y n x' y' : Nat}
    (hx : xa + n ≤ p.geometry.width) (hx' : x' < p.geometry.width) :
    pixel p (hrunCells p c xa y n m) x' y' =
      if xa ≤ x' ∧ x' < xa + n ∧ y' = y then c.bit (pixel p m x' y') else pixel p m x' y' := by
  induction n with
  | zero => rw [if_neg (by omega)]; rfl
  | succ n ih =>
    have hr := rising_hrunCells (p := p) c xa y n h
    unfold hrunCells at ih hr ⊢
    rw [List.range_succ, List.foldl_append, List.foldl_cons, List.foldl_nil,
      pixel_plot hr c (by omega) hx']
    by_cases hc : x' = xa + n ∧ y' = y
    · obtain ⟨rfl, rfl⟩ := hc
      rw [if_pos ⟨rfl, rfl⟩, if_pos (by omega), ih (by omega), if_neg (by omega)]
    · rw [if_neg hc, ih (by omega)]
      by_cases hd : xa ≤ x' ∧ x' < xa + n ∧ y' = y
      · rw [if_pos hd, if_pos (by omega)]
      · rw [if_neg hd, if_neg (by omega)]

/-- The pixels of the loop of FB_VRUN. -/
theorem pixel_vrunCells {p : Params} {m : Memory} (h : m.rising = true) (c : Colour) {x ya n x' y' : Nat}
    (hx : x < p.geometry.width) (hx' : x' < p.geometry.width) :
    pixel p (vrunCells p c x ya n m) x' y' =
      if x' = x ∧ ya ≤ y' ∧ y' < ya + n then c.bit (pixel p m x' y') else pixel p m x' y' := by
  induction n with
  | zero => rw [if_neg (by omega)]; rfl
  | succ n ih =>
    have hr := rising_vrunCells (p := p) c x ya n h
    unfold vrunCells at ih hr ⊢
    rw [List.range_succ, List.foldl_append, List.foldl_cons, List.foldl_nil, pixel_plot hr c hx hx']
    by_cases hc : x' = x ∧ y' = ya + n
    · obtain ⟨rfl, rfl⟩ := hc
      rw [if_pos ⟨rfl, rfl⟩, if_pos (by omega), ih, if_neg (by omega)]
    · rw [if_neg hc, ih]
      by_cases hd : x' = x ∧ ya ≤ y' ∧ y' < ya + n
      · rw [if_pos hd, if_pos (by omega)]
      · rw [if_neg hd, if_neg (by omega)]

/-! ## The primitives -/

/-- All that FB_HRUN can do: nothing, or the clipped run, drawn and added to the window. -/
theorem State.fbHrun_cases (s : State) (x y len : Int) (c : Colour) :
    s.fbHrun x y len c = s ∨
      (∃ xa xe yy : Nat, xa < xe ∧ xe ≤ s.cfg.geometry.width ∧ yy < s.cfg.geometry.height ∧
        (xa : Int) = max x 0 ∧ (xe : Int) = min (x + len) s.cfg.geometry.width ∧ (yy : Int) = y ∧
        s.fbHrun x y len c =
          { s with
            fb := hrunCells s.cfg c xa yy (xe - xa) s.fb
            dw := s.dw.expand xa yy ((xe : Int) - 1) yy }) := by
  have e1 : clipLo x = max x 0 := rfl
  have e2 : clipHi x len s.cfg.geometry.width = min (x + len) s.cfg.geometry.width := rfl
  unfold State.fbHrun
  dsimp only
  split
  · exact .inl rfl
  · split
    · exact .inl rfl
    · rename_i hp hr
      refine .inr ⟨(clipLo x).toNat, (clipHi x len s.cfg.geometry.width).toNat, y.toNat, by omega,
        by omega, by omega, by omega, by omega, by omega, ?_⟩
      have e3 : (((clipLo x).toNat : Nat) : Int) = clipLo x := by omega
      have e4 : (((clipHi x len s.cfg.geometry.width).toNat : Nat) : Int) =
        clipHi x len s.cfg.geometry.width := by omega
      have e5 : ((y.toNat : Nat) : Int) = y := by omega
      have e6 : (clipHi x len s.cfg.geometry.width - clipLo x).toNat =
        (clipHi x len s.cfg.geometry.width).toNat - (clipLo x).toNat := by omega
      rw [e3, e4, e5, e6]

/-- All that FB_VRUN can do. -/
theorem State.fbVrun_cases (s : State) (x y len : Int) (c : Colour) :
    s.fbVrun x y len c = s ∨
      (∃ ya ye xx : Nat, ya < ye ∧ ye ≤ s.cfg.geometry.height ∧ xx < s.cfg.geometry.width ∧
        (ya : Int) = max y 0 ∧ (ye : Int) = min (y + len) s.cfg.geometry.height ∧ (xx : Int) = x ∧
        s.fbVrun x y len c =
          { s with
            fb := vrunCells s.cfg c xx ya (ye - ya) s.fb
            dw := s.dw.expand xx ya xx ((ye : Int) - 1) }) := by
  have e1 : clipLo y = max y 0 := rfl
  have e2 : clipHi y len s.cfg.geometry.height = min (y + len) s.cfg.geometry.height := rfl
  unfold State.fbVrun
  dsimp only
  split
  · exact .inl rfl
  · split
    · exact .inl rfl
    · rename_i hp hr
      refine .inr ⟨(clipLo y).toNat, (clipHi y len s.cfg.geometry.height).toNat, x.toNat, by omega,
        by omega, by omega, by omega, by omega, by omega, ?_⟩
      have e3 : (((clipLo y).toNat : Nat) : Int) = clipLo y := by omega
      have e4 : (((clipHi y len s.cfg.geometry.height).toNat : Nat) : Int) =
        clipHi y len s.cfg.geometry.height := by omega
      have e5 : ((x.toNat : Nat) : Int) = x := by omega
      have e6 : (clipHi y len s.cfg.geometry.height - clipLo y).toNat =
        (clipHi y len s.cfg.geometry.height).toNat - (clipLo y).toNat := by omega
      rw [e3, e4, e5, e6]

/-- A primitive changes FB and DW alone. -/
theorem State.runPrim_frame (s : State) (k : RunKind) (x y len : Int) (c : Colour) :
    ∃ fb dw, s.runPrim k x y len c = { s with fb := fb, dw := dw } := by
  cases k
  · rcases s.fbHrun_cases x y len c with h | ⟨_, _, _, _, _, _, _, _, _, h⟩
    · exact ⟨s.fb, s.dw, h⟩
    · exact ⟨_, _, h⟩
  · rcases s.fbVrun_cases x y len c with h | ⟨_, _, _, _, _, _, _, _, _, h⟩
    · exact ⟨s.fb, s.dw, h⟩
    · exact ⟨_, _, h⟩

/-- A logical run changes FB and DW alone. -/
theorem State.drawRun_frame (s : State) (k : RunKind) (x y len : Int) (c : Colour) :
    ∃ fb dw, s.drawRun k x y len c = { s with fb := fb, dw := dw } := s.runPrim_frame _ _ _ _ _

/-- The splash changes FB and DW alone. -/
theorem State.applySplash_frame (s : State) : ∃ fb dw, s.applySplash = { s with fb := fb, dw := dw } := by
  unfold State.applySplash
  generalize s.cfg.splash = l
  induction l generalizing s with
  | nil => exact ⟨s.fb, s.dw, rfl⟩
  | cons c l ih =>
    obtain ⟨fb, dw, h⟩ := s.runPrim_frame c.kind c.x c.y c.length c.colour
    obtain ⟨fb', dw', h'⟩ := ih { s with fb := fb, dw := dw }
    exact ⟨fb', dw', by rw [List.foldl_cons, h, h']⟩

/-- DW_EXPAND by a box inside the buffer keeps DW legal (10_state.md R16). -/
theorem Window.legal_expand {g : Geometry} {w : Window} (h : Window.Legal g w) {x1 y1 x2 y2 : Int}
    (hx : 0 ≤ x1 ∧ x1 ≤ x2 ∧ x2 ≤ (g.width : Int) - 1) (hy : 0 ≤ y1 ∧ y1 ≤ y2 ∧ y2 ≤ (g.height : Int) - 1) :
    Window.Legal g (w.expand x1 y1 x2 y2) := by
  refine .inr ?_
  rcases h with rfl | h
  · simp only [Window.expand, Window.sentinel]; omega
  · simp only [Window.expand]; omega

/-- A primitive keeps FB canonical and DW legal. -/
theorem State.runPrim_keeps {s : State} (hf : s.FbWf) (hd : Window.Legal s.cfg.geometry s.dw) (k : RunKind)
    (x y len : Int) (c : Colour) :
    (s.runPrim k x y len c).FbWf ∧ Window.Legal s.cfg.geometry (s.runPrim k x y len c).dw := by
  cases k
  · rcases s.fbHrun_cases x y len c with h | ⟨xa, xe, yy, h1, h2, h3, _, _, _, h⟩
    · simp only [State.runPrim, h]; exact ⟨hf, hd⟩
    · simp only [State.runPrim, h]
      have hx : xa + (xe - xa) ≤ s.cfg.geometry.width := by omega
      exact ⟨wf_hrunCells c hf hx h3, Window.legal_expand hd (by omega) (by omega)⟩
  · rcases s.fbVrun_cases x y len c with h | ⟨ya, ye, xx, h1, h2, h3, _, _, _, h⟩
    · simp only [State.runPrim, h]; exact ⟨hf, hd⟩
    · simp only [State.runPrim, h]
      have hy : ya + (ye - ya) ≤ s.cfg.geometry.height := by omega
      exact ⟨wf_vrunCells c hf h3 hy, Window.legal_expand hd (by omega) (by omega)⟩

/-- The splash keeps FB canonical and DW legal. -/
theorem State.applySplash_keeps {s : State} (hf : s.FbWf) (hd : Window.Legal s.cfg.geometry s.dw) :
    s.applySplash.FbWf ∧ Window.Legal s.cfg.geometry s.applySplash.dw := by
  unfold State.applySplash
  generalize s.cfg.splash = l
  induction l generalizing s with
  | nil => exact ⟨hf, hd⟩
  | cons c l ih =>
    obtain ⟨fb, dw, h⟩ := s.runPrim_frame c.kind c.x c.y c.length c.colour
    obtain ⟨k1, k2⟩ := State.runPrim_keeps hf hd c.kind c.x c.y c.length c.colour
    rw [List.foldl_cons]
    rw [h] at k1 k2 ⊢
    exact ih k1 k2

end Machine

end Sys2Proof
end

