-- ==== Sys2Proof/Laws/Encoding.lean ====
section
/-! SUPPORT. What reading an operand's field gives (30_encoding.md R61), and that it fits the operand latches whatever
COORD_W is, as every legal DW fits its registers (10_state.md R15, R20; log entry 2). -/

namespace Sys2Proof

/-- What fits `n` bits is what `n` bits read back. -/
theorem fitsSigned_iff {n : Nat} (hn : 0 < n) (v : Int) : fitsSigned n v = true ↔ (BitVec.ofInt n v).toInt = v := by
  obtain ⟨k, rfl⟩ : ∃ k, n = k + 1 := ⟨n - 1, by omega⟩
  have hp : (0 : Int) < 2 ^ k := by positivity
  have hc : ((2 ^ (k + 1) : Nat) : Int) = 2 * 2 ^ k := by push_cast; ring
  simp only [fitsSigned, Nat.add_sub_cancel, Bool.and_eq_true, decide_eq_true_eq, BitVec.toInt_ofInt]
  constructor
  · rintro ⟨h1, h2⟩
    exact Int.bmod_eq_of_le (by rw [hc]; omega) (by rw [hc]; omega)
  · intro h
    have h1 := Int.le_bmod (x := v) (m := 2 ^ (k + 1)) (by positivity)
    have h2 := Int.bmod_lt (x := v) (m := 2 ^ (k + 1)) (by positivity)
    rw [h, hc] at h1 h2
    omega

theorem fitsSigned_mono {m n : Nat} (h : m ≤ n) {v : Int} (hv : fitsSigned m v = true) : fitsSigned n v = true := by
  have hp : (2 : Int) ^ (m - 1) ≤ 2 ^ (n - 1) := pow_le_pow_right₀ (by norm_num) (by omega)
  simp only [fitsSigned, Bool.and_eq_true, decide_eq_true_eq] at *
  omega

/-- A decoded operand fits its field. -/
theorem fitsSigned_decodeOperand (v : BitVec 16) : fitsSigned 16 (decodeOperand v) = true := by
  rw [fitsSigned_iff (by omega), decodeOperand, BitVec.ofInt_toInt]

/-- An operand that fits is read back from its field. -/
theorem decodeOperand_ofInt {v : Int} (hv : fitsSigned 16 v = true) : decodeOperand (BitVec.ofInt 16 v) = v :=
  (fitsSigned_iff (by omega) v).mp hv

/-- A field is what is written for its operand. -/
theorem ofInt_decodeOperand (v : BitVec 16) : BitVec.ofInt 16 (decodeOperand v) = v := BitVec.ofInt_toInt

theorem Instr.fits_mono {m n : Nat} (h : m ≤ n) {i : Instr} (hi : i.fits m = true) : i.fits n = true := by
  cases i <;> first
    | rfl
    | simp only [Instr.fits, Bool.and_eq_true] at hi ⊢
      exact ⟨⟨fitsSigned_mono h hi.1.1, fitsSigned_mono h hi.1.2⟩, fitsSigned_mono h hi.2⟩

/-- What an operation word carries fits the operand latches, whatever COORD_W is. -/
theorem Instr.fits_coordW {i : Instr} (p : Params) (hi : i.wellFormed = true) : i.fits p.coordW = true :=
  Instr.fits_mono p.coordW_legal hi

/-- A legal window fits the registers of DW, whatever COORD_W is. -/
theorem Machine.Window.fits_of_legal {p : Params} {w : Machine.Window}
    (h : Machine.Window.Legal p.geometry w) : w.fits p.coordW = true := by
  have hw := p.geometry.width_legal
  have hh := p.geometry.height_legal
  have key : ∀ v : Int, -1 ≤ v → v ≤ 128 → fitsSigned p.coordW v = true := fun v h1 h2 =>
    fitsSigned_mono p.coordW_legal (by simp [fitsSigned]; omega)
  simp only [Machine.Window.fits, Bool.and_eq_true]
  rcases h with rfl | h
  · simp only [Machine.Window.sentinel]
    exact ⟨⟨⟨key _ (by omega) (by omega), key _ (by omega) (by omega)⟩, key _ (by omega) (by omega)⟩,
      key _ (by omega) (by omega)⟩
  · exact ⟨⟨⟨key _ (by omega) (by omega), key _ (by omega) (by omega)⟩, key _ (by omega) (by omega)⟩,
      key _ (by omega) (by omega)⟩

end Sys2Proof
end

