-- ==== Sys2Proof/Laws/Sequencer.lean ====
section
/-! SUPPORT. All that the operations can do: the lifecycle check, the drawing operations, STARTUP, DISPLAY, SHUTDOWN,
the start-scroll sequence and SCRSTOP. -/

namespace Sys2Proof.Machine

/-- The lifecycle check: E_USAGE and nothing else, or the body. -/
theorem State.whenLc_cases (need : Lifecycle) (body : State → State) (s : State) :
    (s.lc ≠ need ∧ s.whenLc need body = s.deliver .eUsage) ∨ (s.lc = need ∧ s.whenLc need body = body s) := by
  unfold State.whenLc
  by_cases h : s.lc = need
  · exact .inr ⟨h, if_pos h⟩
  · exact .inl ⟨h, if_neg h⟩

theorem Window.full_not_empty (g : Geometry) : (Window.full g).isEmpty = false := by
  have := g.width_pos
  simp [Window.isEmpty, Window.full]
  omega

theorem Window.full_legal (g : Geometry) : Window.Legal g (Window.full g) := by
  have := g.width_pos
  have := g.height_pos
  exact .inr (by simp only [Window.full]; omega)

theorem Window.sentinel_empty (g : Geometry) : (Window.sentinel g).isEmpty = true := by
  simp [Window.isEmpty, Window.sentinel]
  omega

/-- A legal window is readable by FLUSH. -/
theorem Window.readable_of_legal {g : Geometry} {w : Window} (h : Window.Legal g w) : w.readable g = true := by
  rcases h with rfl | h
  · simp [Window.readable, Window.sentinel_empty]
  · simp only [Window.readable, Bool.or_eq_true, Bool.and_eq_true, decide_eq_true_eq]
    omega

/-- STARTUP when it has begun: `Starting`, PCFG written (43_sequencer.md R134). -/
def State.begun (s : State) : State := { s with lc := .starting, pcfg := some (panelConfig s.cfg) }

/-- STARTUP after transactions 1 to 16 and the splash, marked full (R136, R137). -/
def State.configured (s : State) : State :=
  (s.begun.sent (startupTxns s.cfg (panelConfig s.cfg))).applySplash.markFull

/-- STARTUP after the full flush. -/
def State.flushed (s : State) : State :=
  ((s.configured.sent (flushTxns s.configured.cfg s.configured.fb s.configured.dw)).atPage 0).resetWindow

theorem State.configured_frame (s : State) : ∃ fb, s.configured =
    { s.begun.sent (startupTxns s.cfg (panelConfig s.cfg)) with fb := fb, dw := Window.full s.cfg.geometry } := by
  obtain ⟨fb, dw, h⟩ := (s.begun.sent (startupTxns s.cfg (panelConfig s.cfg))).applySplash_frame
  exact ⟨fb, by unfold State.configured; rw [h]; rfl⟩

/-- All that the body of STARTUP can do: every transaction answered `ok`; a failure or no answer among the first
sixteen, in the full flush, or at display-on (R134, R143). -/
theorem State.startupBody_cases (s : State) :
    s.startupBody = .done { s.flushed.sent [wireTxn s.cfg.wc .wDisplayOn] with lc := .active } ∨
    (∃ pre t post, startupTxns s.cfg (panelConfig s.cfg) = pre ++ t :: post ∧
      (s.startupBody = .failed ((s.begun.sent pre).sentFailed t) ∨
        s.startupBody = .waiting ((s.begun.sent pre).sentUnanswered t))) ∨
    (∃ pg pre t post, flushTxns s.configured.cfg s.configured.fb s.configured.dw = pre ++ t :: post ∧
      (s.startupBody = .failed (((s.configured.sent pre).atPage pg).sentFailed t) ∨
        s.startupBody = .waiting (((s.configured.sent pre).atPage pg).sentUnanswered t))) ∨
    s.startupBody = .failed (s.flushed.sentFailed (wireTxn s.cfg.wc .wDisplayOn)) ∨
    s.startupBody = .waiting (s.flushed.sentUnanswered (wireTxn s.cfg.wc .wDisplayOn)) := by
  have hb : s.startupBody = ((emitAll (startupTxns s.cfg (panelConfig s.cfg)) s.begun).bind fun s =>
    s.applySplash.markFull.flush.bind fun s =>
      s.emit (wireTxn s.cfg.wc .wDisplayOn)).map fun s => { s with lc := .active } := rfl
  rcases emitAll_cases (startupTxns s.cfg (panelConfig s.cfg)) s.begun with h | ⟨pre, t, post, hts, h⟩ |
    ⟨pre, t, post, hts, h⟩
  · rw [h] at hb
    have hc : s.startupBody = (s.configured.flush.bind fun s => s.emit (wireTxn s.cfg.wc .wDisplayOn)).map
      fun s => { s with lc := .active } := hb
    have hdw : s.configured.dw.isEmpty = false := by
      obtain ⟨fb, e⟩ := s.configured_frame
      rw [e]; exact Window.full_not_empty _
    have hcfg : s.flushed.cfg = s.cfg := by
      obtain ⟨fb, e⟩ := s.configured_frame
      have : s.flushed.cfg = s.configured.cfg := rfl
      rw [this, e]; rfl
    rcases s.configured.flush_cases with ⟨he, _⟩ | ⟨_, hf | ⟨pg, pre, t, post, hts, hf⟩ | ⟨pg, pre, t, post, hts, hf⟩⟩
    · rw [hdw] at he; cases he
    · rw [hf] at hc
      have hd : s.startupBody = (s.flushed.emit (wireTxn s.flushed.cfg.wc .wDisplayOn)).map
        fun s => { s with lc := .active } := hc
      rw [hcfg, State.emit_eq] at hd
      cases ha : s.flushed.transport.answer 0 <;> rw [ha] at hd
      · exact .inl hd
      · exact .inr (.inr (.inr (.inl hd)))
      · exact .inr (.inr (.inr (.inr hd)))
    · rw [hf] at hc
      exact .inr (.inr (.inl ⟨pg, pre, t, post, hts, .inl hc⟩))
    · rw [hf] at hc
      exact .inr (.inr (.inl ⟨pg, pre, t, post, hts, .inr hc⟩))
  · rw [h] at hb
    exact .inr (.inl ⟨pre, t, post, hts, .inl hb⟩)
  · rw [h] at hb
    exact .inr (.inl ⟨pre, t, post, hts, .inr hb⟩)

/-- All that SHUTDOWN can do in `Active` (R140, R148). -/
theorem State.shutdown_cases (s : State) (h : s.lc = .active) :
    execShutdown s = .next
        ({ { s with lc := .shuttingDown }.sent (shutdownTxns s.cfg.wc) with lc := .stopped }.deliver .ok) ∨
      ∃ pre t post, shutdownTxns s.cfg.wc = pre ++ t :: post ∧
        (execShutdown s = .next
            (((({ s with lc := .shuttingDown } : State).sent pre).sentFailed t).deliver .eTransport) ∨
          execShutdown s = .next ((({ s with lc := .shuttingDown } : State).sent pre).sentUnanswered t)) := by
  unfold execShutdown
  rw [State.whenLc, if_pos h]
  rcases emitAll_cases (shutdownTxns s.cfg.wc) { s with lc := .shuttingDown } with e | ⟨pre, t, post, hts, e⟩ |
    ⟨pre, t, post, hts, e⟩
  · exact .inl (by rw [e]; rfl)
  · exact .inr ⟨pre, t, post, hts, .inl (by rw [e]; rfl)⟩
  · exact .inr ⟨pre, t, post, hts, .inr (by rw [e]; rfl)⟩

/-- All that a start-scroll operation can do in `Active` (44_scroll.md R158, R166). -/
theorem State.startScroll_cases (s : State) (h : s.lc = .active) (d hi v a b : Byte) :
    s.startScroll d hi v a b = (s.sent (scrollTxns s.cfg d hi v a b)).deliver .ok ∨
      ∃ pre t post, scrollTxns s.cfg d hi v a b = pre ++ t :: post ∧
        (s.startScroll d hi v a b = ((s.sent pre).sentFailed t).deliver .eTransport ∨
          s.startScroll d hi v a b = (s.sent pre).sentUnanswered t) := by
  unfold State.startScroll
  rw [State.whenLc, if_pos h]
  rcases emitAll_cases (scrollTxns s.cfg d hi v a b) s with e | ⟨pre, t, post, hts, e⟩ | ⟨pre, t, post, hts, e⟩
  · exact .inl (by rw [e]; rfl)
  · exact .inr ⟨pre, t, post, hts, .inl (by rw [e]; rfl)⟩
  · exact .inr ⟨pre, t, post, hts, .inr (by rw [e]; rfl)⟩

/-- All that SCRSTOP can do in `Active` (R164). -/
theorem State.scrstop_cases (s : State) (h : s.lc = .active) :
    execScrstop s = .next ((s.sent [wireTxn s.cfg.wc .wDeactivateScroll]).markFull.deliver .ok) ∨
      execScrstop s = .next ((s.sentFailed (wireTxn s.cfg.wc .wDeactivateScroll)).markFull.deliver .eTransport) ∨
      execScrstop s = .next (s.sentUnanswered (wireTxn s.cfg.wc .wDeactivateScroll)) := by
  unfold execScrstop
  rw [State.whenLc, if_pos h, State.emit_eq]
  cases s.transport.answer 0
  · exact .inl rfl
  · exact .inr (.inl rfl)
  · exact .inr (.inr rfl)

/-- FB after a primitive depends on the parameters and FB alone. -/
theorem State.runPrim_fb_congr {s t : State} (hc : s.cfg = t.cfg) (hf : s.fb = t.fb) (k : RunKind) (x y len : Int)
    (c : Colour) : (s.runPrim k x y len c).fb = (t.runPrim k x y len c).fb := by
  cases k
  · simp only [State.runPrim, State.fbHrun, apply_ite State.fb, hc, hf]
  · simp only [State.runPrim, State.fbVrun, apply_ite State.fb, hc, hf]

/-- FB after primitive calls depends on the parameters and FB alone. -/
theorem State.runCalls_fb_congr (l : List PrimCall) {s t : State} (hc : s.cfg = t.cfg) (hf : s.fb = t.fb) :
    (s.runCalls l).fb = (t.runCalls l).fb := by
  induction l generalizing s t with
  | nil => exact hf
  | cons c l ih =>
    refine ih (s := s.runPrim c.kind c.x c.y c.length c.colour) (t := t.runPrim c.kind c.x c.y c.length c.colour) ?_
      (State.runPrim_fb_congr hc hf c.kind c.x c.y c.length c.colour)
    obtain ⟨_, _, e⟩ := s.runPrim_frame c.kind c.x c.y c.length c.colour
    obtain ⟨_, _, e'⟩ := t.runPrim_frame c.kind c.x c.y c.length c.colour
    rw [e, e']; exact hc

/-- FB after the configuration of STARTUP is FB with the splash drawn. -/
theorem State.configured_fb (s : State) : s.configured.fb = (s.runCalls s.cfg.splash).fb :=
  State.runCalls_fb_congr s.cfg.splash (s := s.begun.sent (startupTxns s.cfg (panelConfig s.cfg))) (t := s) rfl rfl

/-- All that HRUN can do. -/
theorem execHrun_cases (s : State) (c : Colour) (len y x : Int) :
    (s.lc ≠ .active ∧ execHrun c len y x s = .next (s.deliver .eUsage)) ∨
      (s.lc = .active ∧ execHrun c len y x s = .next ((s.drawRun .horizontal x y len c).deliver .ok)) := by
  rcases s.whenLc_cases .active (fun s => (s.drawRun .horizontal x y len c).deliver .ok) with ⟨h, e⟩ | ⟨h, e⟩
  · exact .inl ⟨h, congrArg _ e⟩
  · exact .inr ⟨h, congrArg _ e⟩

/-- All that VRUN can do. -/
theorem execVrun_cases (s : State) (c : Colour) (len y x : Int) :
    (s.lc ≠ .active ∧ execVrun c len y x s = .next (s.deliver .eUsage)) ∨
      (s.lc = .active ∧ execVrun c len y x s = .next ((s.drawRun .vertical x y len c).deliver .ok)) := by
  rcases s.whenLc_cases .active (fun s => (s.drawRun .vertical x y len c).deliver .ok) with ⟨h, e⟩ | ⟨h, e⟩
  · exact .inl ⟨h, congrArg _ e⟩
  · exact .inr ⟨h, congrArg _ e⟩

/-- All that DISPLAY can do (43_sequencer.md R139). -/
theorem execDisplay_cases (s : State) :
    (s.lc ≠ .active ∧ execDisplay s = .next (s.deliver .eUsage)) ∨
      (s.lc = .active ∧ s.dw.readable s.cfg.geometry = false ∧ execDisplay s = .fault .windowOutOfRange) ∨
      (s.lc = .active ∧ s.dw.readable s.cfg.geometry = true ∧ execDisplay s = .next s.flush.finish) := by
  by_cases h : s.lc = .active
  · cases hr : s.dw.readable s.cfg.geometry
    · exact .inr (.inl ⟨h, rfl, by simp [execDisplay, h, hr]⟩)
    · exact .inr (.inr ⟨h, rfl, by simp [execDisplay, h, hr, State.whenLc]⟩)
  · exact .inl ⟨h, by simp only [execDisplay, h, State.whenLc, false_and, if_false]⟩

end Sys2Proof.Machine
end

