-- ==== Sys2Proof/Laws/Exec.lean ====
section
/-! SUPPORT. All that running an instruction can do: end with OK, E_USAGE or E_TRANSPORT, or wait for an answer that
does not come; and the traffic of each. -/

namespace Sys2Proof.Machine

/-- From `s` to `u` only transactions answered `ok` were added to the trace, and no result was delivered. -/
def SentOk (s u : State) : Prop :=
  u.results = s.results ∧ ∃ ts : List Txn, u.trace = s.trace ++ ts.map fun x => ⟨x, true⟩

/-- How an instruction that answers a next state has run (60_exceptions.md R170 to R172, R182). -/
inductive Ran (i : Instr) (s t : State) : Prop
  /-- Refused by the lifecycle. -/
  | usage (e : t = s.deliver .eUsage) (h : accepts i s.lc = false)
  /-- Ended OK. -/
  | ok (u : State) (e : t = u.deliver .ok) (h : SentOk s u)
  /-- Ended E_TRANSPORT: the last transaction was answered `fail`. -/
  | failed (u : State) (x : Txn) (e : t = u.deliver .eTransport) (h : ∃ v, SentOk s v ∧ u.results = v.results ∧
      u.trace = v.trace ++ [⟨x, false⟩]) (hi : requires i ≠ none ∨ i.isHost = false)
      (hd : (∀ c len y x, i ≠ .hrun c len y x) ∧ ∀ c len y x, i ≠ .vrun c len y x)
  /-- Has not ended. -/
  | waits (u : State) (x : Txn) (e : t = u.sentUnanswered x) (h : SentOk s u)

theorem SentOk.refl (s : State) : SentOk s s := ⟨rfl, [], by simp⟩

theorem SentOk.same {s u : State} (h1 : u.results = s.results) (h2 : u.trace = s.trace) : SentOk s u :=
  ⟨h1, [], by simp [h2]⟩

theorem SentOk.sent {s u : State} (h : SentOk s u) (ts : List Txn) : SentOk s (u.sent ts) := by
  obtain ⟨h1, l, h2⟩ := h
  exact ⟨h1, l ++ ts, by simp [State.sent, h2]⟩

theorem SentOk.configured (s : State) : SentOk s s.configured := by
  obtain ⟨fb, e⟩ := s.configured_frame
  rw [e]
  exact ⟨rfl, _, rfl⟩

theorem SentOk.flushed (s : State) : SentOk s s.flushed := (SentOk.configured s).sent _

theorem Ran.issueWire {i : Instr} {s : State} (j : Instr) (hi : requires i ≠ none ∨ i.isHost = false)
    (hd : (∀ c len y x, i ≠ .hrun c len y x) ∧ ∀ c len y x, i ≠ .vrun c len y x) : Ran i s (s.issueWire j) := by
  rcases s.issueWire_cases j with e | e | e <;> rw [e]
  · exact .ok _ rfl ((SentOk.refl s).sent _)
  · exact .failed _ _ rfl ⟨s, .refl s, rfl, rfl⟩ hi hd
  · exact .waits _ _ rfl (.refl s)

theorem Ran.startScroll {i : Instr} {s : State} (d hi v a b : Byte) (hu : requires i = some .active)
    (hd : (∀ c len y x, i ≠ .hrun c len y x) ∧ ∀ c len y x, i ≠ .vrun c len y x) :
    Ran i s (s.startScroll d hi v a b) := by
  by_cases hl : s.lc = .active
  · rcases s.startScroll_cases hl d hi v a b with e | ⟨_, _, _, _, e | e⟩ <;> rw [e]
    · exact .ok _ rfl ((SentOk.refl s).sent _)
    · exact .failed _ _ rfl ⟨_, (SentOk.refl s).sent _, rfl, rfl⟩ (.inl (by simp [hu])) hd
    · exact .waits _ _ rfl ((SentOk.refl s).sent _)
  · refine .usage ?_ (by simp [accepts, hu, hl])
    rw [State.startScroll, State.whenLc, if_neg hl]

theorem Ran.startup (s : State) : ∀ t, execStartup s = .next t → Ran .startup s t := by
  intro t h
  rcases s.whenLc_cases .uninitialized (fun s => s.startupBody.finish) with ⟨hl, e⟩ | ⟨hl, e⟩
  · simp only [execStartup, e] at h
    cases h
    exact .usage rfl (by simp [accepts, requires, hl])
  · obtain rfl : s.startupBody.finish = t := by simpa only [execStartup, e, Host.Outcome.next.injEq] using h
    have hi : requires .startup ≠ none ∨ Instr.startup.isHost = false := .inl nofun
    rcases s.startupBody_cases with e | ⟨pre, u, post, _, e | e⟩ | ⟨pg, pre, u, post, _, e | e⟩ | e | e <;>
      rw [e] <;> simp only [Io.finish]
    · exact .ok _ rfl ((SentOk.flushed s).sent _)
    · exact .failed _ _ rfl ⟨_, (SentOk.same (u := s.begun) rfl rfl).sent _, rfl, rfl⟩ hi ⟨nofun, nofun⟩
    · exact .waits _ _ rfl ((SentOk.same (u := s.begun) rfl rfl).sent _)
    · exact .failed _ _ rfl ⟨_, (SentOk.configured s).sent _, rfl, rfl⟩ hi ⟨nofun, nofun⟩
    · exact .waits _ _ rfl ((SentOk.configured s).sent _)
    · exact .failed _ _ rfl ⟨_, SentOk.flushed s, rfl, rfl⟩ hi ⟨nofun, nofun⟩
    · exact .waits _ _ rfl (SentOk.flushed s)

theorem Ran.display (s : State) : ∀ t, execDisplay s = .next t → Ran .display s t := by
  intro t h
  rcases execDisplay_cases s with ⟨hl, e⟩ | ⟨hl, hr, e⟩ | ⟨hl, hr, e⟩ <;> rw [e] at h <;> cases h
  · exact .usage rfl (by simp [accepts, requires, hl])
  · rcases s.flush_cases with ⟨_, e⟩ | ⟨_, e | ⟨pg, pre, t, post, _, e⟩ | ⟨pg, pre, t, post, _, e⟩⟩ <;> rw [e]
    · exact .ok _ rfl (.refl s)
    · exact .ok _ rfl ((SentOk.refl s).sent _)
    · exact .failed _ _ rfl ⟨_, (SentOk.refl s).sent _, rfl, rfl⟩ (.inl nofun) ⟨nofun, nofun⟩
    · exact .waits _ _ rfl ((SentOk.refl s).sent _)

theorem Ran.shutdown (s : State) : ∀ t, execShutdown s = .next t → Ran .shutdown s t := by
  intro t h
  by_cases hl : s.lc = .active
  · have h0 : SentOk s { s with lc := .shuttingDown } := .same rfl rfl
    rcases s.shutdown_cases hl with e | ⟨pre, u, post, _, e | e⟩ <;> rw [e] at h <;> cases h
    · exact .ok _ rfl (h0.sent (shutdownTxns s.cfg.wc))
    · exact .failed _ _ rfl ⟨_, h0.sent _, rfl, rfl⟩ (.inl nofun) ⟨nofun, nofun⟩
    · exact .waits _ _ rfl (h0.sent _)
  · rw [execShutdown, State.whenLc, if_neg hl] at h
    cases h
    exact .usage rfl (by simp [accepts, requires, hl])

theorem Ran.scrstop (s : State) : ∀ t, execScrstop s = .next t → Ran .scrstop s t := by
  intro t h
  by_cases hl : s.lc = .active
  · rcases s.scrstop_cases hl with e | e | e <;> rw [e] at h <;> cases h
    · exact .ok _ rfl ((SentOk.refl s).sent [wireTxn s.cfg.wc .wDeactivateScroll])
    · exact .failed _ (wireTxn s.cfg.wc .wDeactivateScroll) rfl ⟨s, .refl s, rfl, rfl⟩ (.inl nofun) ⟨nofun, nofun⟩
    · exact .waits _ _ rfl (.refl s)
  · rw [execScrstop, State.whenLc, if_neg hl] at h
    cases h
    exact .usage rfl (by simp [accepts, requires, hl])

/-- A command sent from `Active` alone. -/
theorem Ran.whenActive {i : Instr} {s t : State} (j : Instr) (hi : requires i = some .active)
    (hd : (∀ c len y x, i ≠ .hrun c len y x) ∧ ∀ c len y x, i ≠ .vrun c len y x)
    (h : t = s.whenLc .active fun s => s.issueWire j) : Ran i s t := by
  subst h
  rcases s.whenLc_cases .active (fun s => s.issueWire j) with ⟨hl, e⟩ | ⟨hl, e⟩ <;> rw [e]
  · exact .usage rfl (by simp [accepts, hi, hl])
  · exact .issueWire j (.inl (by simp [hi])) hd

/-- All that an instruction that answers a next state can do. -/
theorem exec_ran (i : Instr) (s t : State) (h : exec i s = .next t) : Ran i s t := by
  cases i
  case hrun c len y x =>
    obtain ⟨f, d, e0⟩ := s.drawRun_frame .horizontal x y len c
    rcases execHrun_cases s c len y x with ⟨hl, e⟩ | ⟨hl, e⟩ <;> simp only [exec, e] at h <;> cases h
    · exact .usage rfl (by simp [accepts, requires, hl])
    · exact .ok _ rfl (by rw [e0]; exact .same rfl rfl)
  case vrun c len y x =>
    obtain ⟨f, d, e0⟩ := s.drawRun_frame .vertical x y len c
    rcases execVrun_cases s c len y x with ⟨hl, e⟩ | ⟨hl, e⟩ <;> simp only [exec, e] at h <;> cases h
    · exact .usage rfl (by simp [accepts, requires, hl])
    · exact .ok _ rfl (by rw [e0]; exact .same rfl rfl)
  case setrot q => cases h; exact .ok { s with rot := q } rfl (.same rfl rfl)
  case startup => exact .startup s t h
  case display => exact .display s t h
  case shutdown => exact .shutdown s t h
  case scrstop => exact .scrstop s t h
  case endisp b => exact .whenActive _ rfl ⟨nofun, nofun⟩ (by cases h; rfl)
  case invdisp b => exact .whenActive _ rfl ⟨nofun, nofun⟩ (by cases h; rfl)
  case scrl a b => cases h; exact .startScroll _ _ _ _ _ rfl ⟨nofun, nofun⟩
  case scrr a b => cases h; exact .startScroll _ _ _ _ _ rfl ⟨nofun, nofun⟩
  case scrdl a b => cases h; exact .startScroll _ _ _ _ _ rfl ⟨nofun, nofun⟩
  case scrdr a b => cases h; exact .startScroll _ _ _ _ _ rfl ⟨nofun, nofun⟩
  case scrup a b => cases h; exact .startScroll _ _ _ _ _ rfl ⟨nofun, nofun⟩
  all_goals cases h; exact .issueWire _ (.inr rfl) ⟨nofun, nofun⟩

end Sys2Proof.Machine
end

