-- ==== Sys2Proof/Laws/Inside.lean ====
section
/-! SUPPORT. Nothing reads FB outside its bytes (20_memory.md R37, R44): two states that differ in what their memory
holds outside `0 .. FB_SIZE-1` do the same. -/

namespace Sys2Proof.Machine

/-- The states agree but for what their FB holds outside the buffer. -/
structure Alike (s t : State) : Prop where
  eq : t = { s with fb := t.fb }
  left : s.fb.rising = true
  right : t.fb.rising = true
  inside : SameInside s.cfg t.fb s.fb

/-- The stretches of transactions ended alike. -/
def Io.Alike : Io → Io → Prop
  | .done s, .done t => Machine.Alike s t
  | .failed s, .failed t => Machine.Alike s t
  | .waiting s, .waiting t => Machine.Alike s t
  | .done _, .failed _ | .done _, .waiting _ | .failed _, .done _ => False
  | .failed _, .waiting _ | .waiting _, .done _ | .waiting _, .failed _ => False

/-- What neither reads nor writes FB. -/
theorem Alike.update {s t : State} (h : Alike s t) (f : State → State)
    (hf : ∀ (s : State) m, f { s with fb := m } = { f s with fb := m }) (hb : ∀ s, (f s).fb = s.fb)
    (hc : ∀ s, (f s).cfg = s.cfg) : Alike (f s) (f t) := by
  obtain ⟨e, l, r, i⟩ := h
  refine ⟨?_, by rw [hb]; exact l, by rw [hb]; exact r, fun j hj => ?_⟩
  · rw [hb]; conv_lhs => rw [e, hf]
  · rw [hc, hb, hb] at *; exact i j hj

theorem Alike.deliver {s t : State} (h : Alike s t) (r : ResultCode) : Alike (s.deliver r) (t.deliver r) := by
  obtain ⟨e, l, hr, i⟩ := h
  exact ⟨by rw [e]; rfl, l, hr, i⟩

/-- Going on from alike states. -/
theorem Io.Alike.bind {q r : Io} (h : q.Alike r) {f g : State → Io}
    (hf : ∀ s t, Machine.Alike s t → (f s).Alike (g t)) : (q.bind f).Alike (r.bind g) := by
  cases q <;> cases r <;> first | exact hf _ _ h | exact h | exact h.elim

theorem Io.Alike.map {q r : Io} (h : q.Alike r) {f g : State → State}
    (hf : ∀ s t, Machine.Alike s t → Machine.Alike (f s) (g t)) : (q.map f).Alike (r.map g) := by
  cases q <;> cases r <;> first | exact hf _ _ h | exact h

theorem Io.Alike.finish {q r : Io} (h : q.Alike r) : Machine.Alike q.finish r.finish := by
  cases q <;> cases r <;> first | exact Machine.Alike.deliver h _ | exact h | exact h.elim

theorem Alike.emit {s t : State} (h : Alike s t) (x : Txn) : (s.emit x).Alike (t.emit x) := by
  obtain ⟨e, l, r, i⟩ := h
  rw [e, State.emit_eq, State.emit_eq]
  have ht : ({ s with fb := t.fb } : State).transport = s.transport := rfl
  rw [ht]
  cases s.transport.answer 0 <;> exact ⟨rfl, l, r, i⟩

theorem Alike.emitAll {s t : State} (h : Alike s t) (l : List Txn) : (emitAll l s).Alike (emitAll l t) := by
  induction l generalizing s t with
  | nil => exact h
  | cons x l ih => exact (h.emit x).bind fun _ _ h => ih h

/-- The same read-modify-write inside the buffer. -/
theorem SameInside.modify {p : Params} {m n : Memory} (h : SameInside p m n) (hm : m.rising = true)
    (hn : n.rising = true) (c : Colour) {i : Nat} (hi : i < p.geometry.fbSize) (k : Byte) :
    SameInside p (fbModify p c m i k) (fbModify p c n i k) := by
  intro j hj
  rw [fbRead_fbModify hm, fbRead_fbModify hn, h j hj, h i hi]

theorem SameInside.hrunCells {p : Params} {m n : Memory} (h : SameInside p m n) (hm : m.rising = true)
    (hn : n.rising = true) (c : Colour) {xa y k : Nat} (hx : xa + k ≤ p.geometry.width) (hy : y < p.geometry.height) :
    SameInside p (hrunCells p c xa y k m) (hrunCells p c xa y k n) := by
  induction k with
  | zero => exact h
  | succ k ih =>
    have e : ∀ m, Machine.hrunCells p c xa y (k + 1) m = plot p c (Machine.hrunCells p c xa y k m) (xa + k) y := by
      intro m; simp [Machine.hrunCells, List.range_succ]
    rw [e, e]
    exact (ih (by omega)).modify (rising_hrunCells c _ _ _ hm) (rising_hrunCells c _ _ _ hn) c
      (p.geometry.index_lt (by omega) hy) _

theorem SameInside.vrunCells {p : Params} {m n : Memory} (h : SameInside p m n) (hm : m.rising = true)
    (hn : n.rising = true) (c : Colour) {x ya k : Nat} (hx : x < p.geometry.width) (hy : ya + k ≤ p.geometry.height) :
    SameInside p (vrunCells p c x ya k m) (vrunCells p c x ya k n) := by
  induction k with
  | zero => exact h
  | succ k ih =>
    have e : ∀ m, Machine.vrunCells p c x ya (k + 1) m = plot p c (Machine.vrunCells p c x ya k m) x (ya + k) := by
      intro m; simp [Machine.vrunCells, List.range_succ]
    rw [e, e]
    exact (ih (by omega)).modify (rising_vrunCells c _ _ _ hm) (rising_vrunCells c _ _ _ hn) c
      (p.geometry.index_lt hx (by omega)) _

/-- The primitives read and write inside the buffer. -/
theorem Alike.runPrim {s t : State} (h : Alike s t) (k : RunKind) (x y len : Int) (c : Colour) :
    Alike (s.runPrim k x y len c) (t.runPrim k x y len c) := by
  obtain ⟨e, l, r, i⟩ := h
  generalize t.fb = m at e r i
  subst e
  cases k
  · simp only [State.runPrim, State.fbHrun, clipLo, clipHi]
    split
    · exact ⟨rfl, l, r, i⟩
    · by_cases hn : min (x + len) (s.cfg.geometry.width : Int) - max x 0 ≤ 0
      · simp only [hn, if_true]
        exact ⟨rfl, l, r, i⟩
      · simp only [hn, if_false]
        exact ⟨rfl, rising_hrunCells c _ _ _ l, rising_hrunCells c _ _ _ r,
          i.hrunCells r l c (by omega) (by omega)⟩
  · simp only [State.runPrim, State.fbVrun, clipLo, clipHi]
    split
    · exact ⟨rfl, l, r, i⟩
    · by_cases hn : min (y + len) (s.cfg.geometry.height : Int) - max y 0 ≤ 0
      · simp only [hn, if_true]
        exact ⟨rfl, l, r, i⟩
      · simp only [hn, if_false]
        exact ⟨rfl, rising_vrunCells c _ _ _ l, rising_vrunCells c _ _ _ r,
          i.vrunCells r l c (by omega) (by omega)⟩

theorem Alike.cfg {s t : State} (h : Alike s t) : t.cfg = s.cfg := by rw [h.eq]

theorem Alike.lc {s t : State} (h : Alike s t) : t.lc = s.lc := by rw [h.eq]

theorem Alike.dw {s t : State} (h : Alike s t) : t.dw = s.dw := by rw [h.eq]

theorem Alike.drawRun {s t : State} (h : Alike s t) (k : RunKind) (x y len : Int) (c : Colour) :
    Alike (s.drawRun k x y len c) (t.drawRun k x y len c) := by
  have hr : t.rot = s.rot := by rw [h.eq]
  unfold State.drawRun
  rw [h.cfg, hr]
  exact h.runPrim _ _ _ _ _

theorem Alike.applySplash {s t : State} (h : Alike s t) : Alike s.applySplash t.applySplash := by
  unfold State.applySplash
  rw [h.cfg]
  generalize s.cfg.splash = l
  induction l generalizing s t with
  | nil => exact h
  | cons c l ih => exact ih (h.runPrim _ _ _ _ _)

/-- The bytes of a page of a window inside the buffer lie inside the buffer. -/
theorem SameInside.pageTxns {p : Params} {m n : Memory} (h : SameInside p m n) {w : Window}
    (hw : w.readable p.geometry = true) (he : w.isEmpty = false) {pg : Nat} (hp : pg ∈ w.pages) :
    pageTxns p m w pg = pageTxns p n w pg := by
  simp only [Window.readable, he, Bool.false_or, Bool.and_eq_true, decide_eq_true_eq] at hw
  obtain ⟨⟨⟨h1, h2⟩, h3⟩, h4⟩ := hw
  have hn : 0 < w.x2 - w.x1 + 1 := by simpa [Window.isEmpty] using he
  have hpg : pg < p.geometry.pages := by
    simp only [Window.pages, List.mem_range'_1] at hp
    have : w.y2.toNat / 8 ≤ (p.geometry.height - 1) / 8 := Nat.div_le_div_right (by omega)
    have := p.geometry.height_pos
    unfold Geometry.pages
    omega
  unfold Machine.pageTxns pageBytes
  congr 2
  congr 1
  refine List.map_congr_left fun k hk => h _ ?_
  rw [List.mem_range] at hk
  have hm : (pg + 1) * p.geometry.width ≤ p.geometry.pages * p.geometry.width := Nat.mul_le_mul_right _ hpg
  unfold Geometry.fbSize
  rw [Nat.mul_comm p.geometry.width, Nat.add_mul] at *
  omega

theorem Alike.emitPages {w : Window} (he : w.isEmpty = false) (l : List Nat) (hl : ∀ pg ∈ l, pg ∈ w.pages)
    {s t : State} (h : Alike s t) (hw : w.readable s.cfg.geometry = true) :
    (emitPages w l s).Alike (emitPages w l t) := by
  induction l generalizing s t with
  | nil => exact h
  | cons pg l ih =>
    simp only [Machine.emitPages]
    have hp : pageTxns t.cfg t.fb w pg = pageTxns s.cfg s.fb w pg := by
      rw [h.cfg]; exact h.inside.pageTxns hw he (hl pg (by simp))
    rw [hp]
    have ha : Alike (s.atPage pg) (t.atPage pg) :=
      h.update (State.atPage pg) (fun _ _ => rfl) (fun _ => rfl) fun _ => rfl
    have hc : ∀ u, Machine.emitAll (pageTxns s.cfg s.fb w pg) (s.atPage pg) = .done u → u.cfg = s.cfg := by
      intro u hu
      rcases emitAll_cases (pageTxns s.cfg s.fb w pg) (s.atPage pg) with e | ⟨_, _, _, _, e⟩ | ⟨_, _, _, _, e⟩ <;>
        rw [e] at hu <;> cases hu
      rfl
    have hq := ha.emitAll (pageTxns s.cfg s.fb w pg)
    revert hc hq
    cases Machine.emitAll (pageTxns s.cfg s.fb w pg) (s.atPage pg) <;>
      cases Machine.emitAll (pageTxns s.cfg s.fb w pg) (t.atPage pg) <;> intro hc hq <;>
      first
        | exact hq.elim
        | exact ih (fun q h => hl q (by simp [h])) hq (by rw [hc _ rfl]; exact hw)
        | exact hq

/-- FLUSH of a window that is empty or inside the buffer. -/
theorem Alike.flush {s t : State} (h : Alike s t) (hw : s.dw.readable s.cfg.geometry = true) :
    s.flush.Alike t.flush := by
  unfold State.flush
  rw [h.dw]
  split
  · exact h
  · rename_i he
    refine (Alike.emitPages (by simpa using he) _ (fun _ h => h) h hw).map fun u v hu => ?_
    exact hu.update (fun s => (s.atPage 0).resetWindow) (fun _ _ => rfl) (fun _ => rfl) fun _ => rfl

theorem Alike.startupBody {s t : State} (h : Alike s t) : s.startupBody.Alike t.startupBody := by
  have hb : Alike s.begun t.begun := h.update State.begun (fun _ _ => rfl) (fun _ => rfl) fun _ => rfl
  have hs : ∀ s : State, s.startupBody = ((Machine.emitAll (startupTxns s.cfg (panelConfig s.cfg)) s.begun).bind fun u =>
    u.applySplash.markFull.flush.bind fun u => u.emit (wireTxn u.cfg.wc .wDisplayOn)).map fun u =>
      { u with lc := .active } := fun _ => rfl
  rw [hs, hs, h.cfg]
  refine Io.Alike.map ?_ fun u v hu => hu.update (fun s => { s with lc := .active }) (fun _ _ => rfl) (fun _ => rfl)
    fun _ => rfl
  refine (hb.emitAll _).bind fun u v hu => ?_
  have hm : Alike u.applySplash.markFull v.applySplash.markFull :=
    hu.applySplash.update State.markFull (fun _ _ => rfl) (fun _ => rfl) fun _ => rfl
  have hr : u.applySplash.markFull.dw.readable u.applySplash.markFull.cfg.geometry = true :=
    Window.readable_of_legal (Window.full_legal _)
  refine (hm.flush hr).bind fun a b hab => ?_
  rw [hab.cfg]
  exact hab.emit _

theorem Alike.whenLc {s t : State} (h : Alike s t) (need : Lifecycle) {f g : State → State}
    (hf : s.lc = need → Alike (f s) (g t)) : Alike (s.whenLc need f) (t.whenLc need g) := by
  unfold State.whenLc
  rw [h.lc]
  split
  · rename_i hl; exact hf hl
  · exact h.deliver _

theorem Alike.issueWire {s t : State} (h : Alike s t) (i : Instr) : Alike (s.issueWire i) (t.issueWire i) := by
  unfold State.issueWire
  rw [h.cfg]
  exact (h.emit _).finish

theorem Alike.startScroll {s t : State} (h : Alike s t) (d hi v a b : Byte) :
    Alike (s.startScroll d hi v a b) (t.startScroll d hi v a b) :=
  h.whenLc _ fun _ => by rw [h.cfg]; exact (h.emitAll _).finish

/-- Every instruction reads FB inside its bytes alone, from a state whose window is legal. -/
theorem Alike.exec {s t : State} (h : Alike s t) (hw : Window.Legal s.cfg.geometry s.dw) (i : Instr) :
    ∃ u v, exec i s = .next u ∧ exec i t = .next v ∧ Alike u v := by
  have hr := Window.readable_of_legal hw
  cases i
  case hrun c len y x => exact ⟨_, _, rfl, rfl, h.whenLc _ fun _ => (h.drawRun _ _ _ _ _).deliver _⟩
  case vrun c len y x => exact ⟨_, _, rfl, rfl, h.whenLc _ fun _ => (h.drawRun _ _ _ _ _).deliver _⟩
  case setrot q =>
    exact ⟨_, _, rfl, rfl, (h.update (fun s => { s with rot := q }) (fun _ _ => rfl) (fun _ => rfl)
      fun _ => rfl).deliver _⟩
  case startup => exact ⟨_, _, rfl, rfl, h.whenLc _ fun _ => h.startupBody.finish⟩
  case display =>
    have hr' : t.dw.readable t.cfg.geometry = true := by rw [h.dw, h.cfg]; exact hr
    simp only [Machine.exec, execDisplay, hr, hr', Bool.true_eq_false, and_false, if_false]
    exact ⟨_, _, rfl, rfl, h.whenLc _ fun _ => (h.flush hr).finish⟩
  case shutdown =>
    refine ⟨_, _, rfl, rfl, h.whenLc _ fun _ => Io.Alike.finish (Io.Alike.map ?_ fun u v hu =>
      hu.update (fun s => { s with lc := .stopped }) (fun _ _ => rfl) (fun _ => rfl) fun _ => rfl)⟩
    have hb := h.update (fun s => { s with lc := .shuttingDown }) (fun _ _ => rfl) (fun _ => rfl) fun _ => rfl
    have hq := hb.emitAll (shutdownTxns s.cfg.wc)
    rwa [show Machine.emitAll (shutdownTxns s.cfg.wc) { t with lc := .shuttingDown } =
      Machine.emitAll (shutdownTxns t.cfg.wc) { t with lc := .shuttingDown } by rw [h.cfg]] at hq
  case scrstop =>
    refine ⟨_, _, rfl, rfl, h.whenLc _ fun _ => ?_⟩
    rw [h.cfg]
    have hq := h.emit (wireTxn s.cfg.wc .wDeactivateScroll)
    have hm : ∀ u v, Alike u v → Alike u.markFull v.markFull := fun u v hu =>
      hu.update State.markFull (fun _ _ => rfl) (fun _ => rfl) fun _ => rfl
    revert hq
    cases s.emit (wireTxn s.cfg.wc .wDeactivateScroll) <;> cases t.emit (wireTxn s.cfg.wc .wDeactivateScroll) <;>
      intro hq <;> first | exact hq.elim | exact (hm _ _ hq).deliver _ | exact hq
  case endisp b => exact ⟨_, _, rfl, rfl, h.whenLc _ fun _ => h.issueWire _⟩
  case invdisp b => exact ⟨_, _, rfl, rfl, h.whenLc _ fun _ => h.issueWire _⟩
  case scrl a b => exact ⟨_, _, rfl, rfl, by rw [h.cfg]; exact h.startScroll _ _ _ _ _⟩
  case scrr a b => exact ⟨_, _, rfl, rfl, by rw [h.cfg]; exact h.startScroll _ _ _ _ _⟩
  case scrdl a b => exact ⟨_, _, rfl, rfl, by rw [h.cfg]; exact h.startScroll _ _ _ _ _⟩
  case scrdr a b => exact ⟨_, _, rfl, rfl, by rw [h.cfg]; exact h.startScroll _ _ _ _ _⟩
  case scrup a b => exact ⟨_, _, rfl, rfl, by rw [h.cfg]; exact h.startScroll _ _ _ _ _⟩
  all_goals exact ⟨_, _, rfl, rfl, h.issueWire _⟩

end Sys2Proof.Machine
end

