-- ==== Sys2Proof/Laws/PerInstr.lean ====
section
/-! SUPPORT. Statements about every instruction as syntax, one lemma per constructor. -/

namespace Sys2Proof.Laws.EncodedWidth

/-- The encoding of an instruction has the width the opcode table gives its row, for every code record. -/
def Statement (i : Instr) : Prop := ∀ wc : WireCodes, (encode wc i).bytes.length * 8 = i.rowBits

theorem hrun (c : Colour) (len y x : Int) : Statement (.hrun c len y x) := fun _ => rfl

theorem vrun (c : Colour) (len y x : Int) : Statement (.vrun c len y x) := fun _ => rfl

theorem setrot (q : Rotation) : Statement (.setrot q) := fun _ => rfl

theorem startup : Statement (.startup) := fun _ => rfl

theorem display : Statement (.display) := fun _ => rfl

theorem shutdown : Statement (.shutdown) := fun _ => rfl

theorem endisp (b : Bool) : Statement (.endisp b) := fun _ => rfl

theorem invdisp (b : Bool) : Statement (.invdisp b) := fun _ => rfl

theorem scrl (stop start : Byte) : Statement (.scrl stop start) := fun _ => rfl

theorem scrr (stop start : Byte) : Statement (.scrr stop start) := fun _ => rfl

theorem scrdl (stop start : Byte) : Statement (.scrdl stop start) := fun _ => rfl

theorem scrdr (stop start : Byte) : Statement (.scrdr stop start) := fun _ => rfl

theorem scrup (stop start : Byte) : Statement (.scrup stop start) := fun _ => rfl

theorem scrstop : Statement (.scrstop) := fun _ => rfl

theorem wDisplayOff : Statement (.wDisplayOff) := fun _ => rfl

theorem wDisplayOn : Statement (.wDisplayOn) := fun _ => rfl

theorem wSetClockDiv (a : Byte) : Statement (.wSetClockDiv a) := fun _ => rfl

theorem wSetMultiplex (a : Byte) : Statement (.wSetMultiplex a) := fun _ => rfl

theorem wMemoryMode (a : Byte) : Statement (.wMemoryMode a) := fun _ => rfl

theorem wSegRemap : Statement (.wSegRemap) := fun _ => rfl

theorem wComScanDec : Statement (.wComScanDec) := fun _ => rfl

theorem wSetVcomDeselect (a : Byte) : Statement (.wSetVcomDeselect a) := fun _ => rfl

theorem wChargePump (a : Byte) : Statement (.wChargePump a) := fun _ => rfl

theorem wSetDisplayOffset (a : Byte) : Statement (.wSetDisplayOffset a) := fun _ => rfl

theorem wSetStartLine (l : BitVec 6) : Statement (.wSetStartLine l) := fun _ => rfl

theorem wSetComPins (a : Byte) : Statement (.wSetComPins a) := fun _ => rfl

theorem wSetContrast (a : Byte) : Statement (.wSetContrast a) := fun _ => rfl

theorem wSetPrecharge (a : Byte) : Statement (.wSetPrecharge a) := fun _ => rfl

theorem wDisplayAllOnResume : Statement (.wDisplayAllOnResume) := fun _ => rfl

theorem wNormalDisplay : Statement (.wNormalDisplay) := fun _ => rfl

theorem wInvertDisplay : Statement (.wInvertDisplay) := fun _ => rfl

theorem wDeactivateScroll : Statement (.wDeactivateScroll) := fun _ => rfl

theorem wActivateScroll : Statement (.wActivateScroll) := fun _ => rfl

theorem wSetVerticalScrollArea (a b : Byte) : Statement (.wSetVerticalScrollArea a b) := fun _ => rfl

theorem wRightScroll (a b c d e f g : Byte) : Statement (.wRightScroll a b c d e f g) := fun _ => rfl

theorem wLeftScroll (a b c d e f g : Byte) : Statement (.wLeftScroll a b c d e f g) := fun _ => rfl

theorem wVertRightScroll (a b c d e f g : Byte) : Statement (.wVertRightScroll a b c d e f g) := fun _ => rfl

theorem wVertLeftScroll (a b c d e f g : Byte) : Statement (.wVertLeftScroll a b c d e f g) := fun _ => rfl

theorem wColumnAddr (a b : Byte) : Statement (.wColumnAddr a b) := fun _ => rfl

theorem wPageAddr (a b : Byte) : Statement (.wPageAddr a b) := fun _ => rfl

end Sys2Proof.Laws.EncodedWidth
end

