-- ==== Sys2Proof/Laws/Rules.lean ====
section
/-! SUPPORT. The lists of transactions that the sequencer builds are the rules' lists written byte by byte
(43_sequencer.md R135, R138, 44_scroll.md R158), with their lengths, and the state of STARTUP before its flush. -/

namespace Sys2Proof.Machine

/-- One page of a flush is the rule's pair of transactions. -/
theorem pageTxns_eq_pagePair {p : Params} {m : Memory} {w : Window} (h1 : 0 ≤ w.x1) (h2 : w.x1 ≤ w.x2) (pg : Nat) :
    pageTxns p m w pg = pagePair p m w.x1.toNat w.x2.toNat pg := by
  obtain ⟨a, ha⟩ := Int.eq_ofNat_of_zero_le h1
  obtain ⟨b, hb⟩ := Int.eq_ofNat_of_zero_le (h1.trans h2)
  have hn : ((b : Int) - a + 1).toNat = b + 1 - a := by omega
  simp only [pageTxns, pagePair, addressTxn, pageBytes, encode, InstrWord.bytes, byteOf, ha, hb]
  simp [hn]

/-- A legal window that is not empty is a box. -/
theorem Window.box_of_legal {g : Geometry} {w : Window} (h : Window.Legal g w) (he : w.isEmpty = false) :
    0 ≤ w.x1 ∧ w.x1 ≤ w.x2 ∧ w.x2 ≤ (g.width : Int) - 1 ∧ 0 ≤ w.y1 ∧ w.y1 ≤ w.y2 ∧ w.y2 ≤ (g.height : Int) - 1 := by
  rcases h with h | h
  · rw [h, Window.sentinel_empty] at he; cases he
  · exact h

/-- The flush of a legal window that is not empty is the rule's list. -/
theorem flushTxns_eq_flushByRule {s : State} (h : Window.Legal s.cfg.geometry s.dw) (he : s.dw.isEmpty = false) :
    flushTxns s.cfg s.fb s.dw = flushByRule s := by
  obtain ⟨h1, h2, -⟩ := Window.box_of_legal h he
  unfold flushTxns flushByRule Window.pages
  congr 1
  funext pg
  exact pageTxns_eq_pagePair h1 h2 pg

theorem Window.full_pages (g : Geometry) : (Window.full g).pages = List.range g.pages := by
  have := g.height_pos
  have : g.pages = ((g.height : Int) - 1).toNat / 8 + 1 := by unfold Geometry.pages; omega
  simp [Window.pages, Window.full, this, List.range_eq_range']

/-- Two transactions a page. -/
theorem flushTxns_length (p : Params) (m : Memory) (w : Window) :
    (flushTxns p m w).length = 2 * w.pages.length := by
  unfold flushTxns
  generalize w.pages = l
  induction l with
  | nil => rfl
  | cons a l ih => simp [pageTxns, ih]; omega

theorem flushTxns_full_length (p : Params) (m : Memory) :
    (flushTxns p m (Window.full p.geometry)).length = 2 * p.geometry.pages := by
  rw [flushTxns_length, Window.full_pages, List.length_range]

theorem startupTxns_length (p : Params) (c : PanelConfig) : (startupTxns p c).length = 16 := rfl

/-- STARTUP's list: the configuration, the flush of the whole buffer, display-on. -/
theorem startupByRule_eq (p : Params) (m : Memory) :
    startupByRule p m = startupTxns p (panelConfig p) ++ flushTxns p m (Window.full p.geometry) ++
      [wireTxn p.wc .wDisplayOn] := by
  have hw := p.geometry.width_pos
  have : pageTxns p m (Window.full p.geometry) = pagePair p m 0 (p.geometry.width - 1) := by
    funext pg
    rw [pageTxns_eq_pagePair (by simp [Window.full]) (by simp [Window.full]; omega)]
    simp [Window.full]
  unfold startupByRule flushTxns
  rw [Window.full_pages, this]
  rfl

theorem startupByRule_length (p : Params) (m : Memory) :
    (startupByRule p m).length = 17 + 2 * p.geometry.pages := by
  rw [startupByRule_eq]
  simp [flushTxns_full_length, startupTxns_length]
  omega

theorem scrollTxns_eq_scrollByRule (p : Params) (d h v stop start : Byte) :
    scrollTxns p d h v stop start = scrollByRule p d h v stop start := by
  have : (p.geometry.width : Int) - 1 = ((p.geometry.width - 1 : Nat) : Int) := by
    have := p.geometry.width_pos; omega
  simp only [scrollTxns, scrollByRule, wireTxn, commandTxn, encode, InstrWord.bytes, byteOf]
  rw [this]
  simp

/-! ## The state of STARTUP before its flush -/

theorem State.configured_cfg (s : State) : s.configured.cfg = s.cfg := by
  obtain ⟨fb, e⟩ := s.configured_frame; rw [e]; rfl

theorem State.configured_dw (s : State) : s.configured.dw = Window.full s.cfg.geometry := by
  obtain ⟨fb, e⟩ := s.configured_frame; rw [e]

theorem State.configured_transport (s : State) : s.configured.transport = s.transport.drop 16 := by
  obtain ⟨fb, e⟩ := s.configured_frame; rw [e]; rfl

theorem State.configured_trace (s : State) :
    s.configured.trace = s.trace ++ (startupTxns s.cfg (panelConfig s.cfg)).map fun t => ⟨t, true⟩ := by
  obtain ⟨fb, e⟩ := s.configured_frame; rw [e]; rfl

/-- With the configuration answered `ok`, STARTUP goes on from `configured`: the flush, then display-on. -/
theorem State.startupBody_of_configured (s : State) (h : s.transport.AllOk 16) :
    s.startupBody = (s.configured.flush.bind fun s => s.emit (wireTxn s.cfg.wc .wDisplayOn)).map fun s =>
      { s with lc := .active } := by
  have hb : s.startupBody = ((emitAll (startupTxns s.cfg (panelConfig s.cfg)) s.begun).bind fun s =>
    s.applySplash.markFull.flush.bind fun s => s.emit (wireTxn s.cfg.wc .wDisplayOn)).map fun s =>
      { s with lc := .active } := rfl
  rw [hb, emitAll_ok (s := s.begun) (ts := startupTxns s.cfg (panelConfig s.cfg)) h]
  rfl

end Sys2Proof.Machine
end

