-- ==== Sys2Proof/Machine/Assembler.lean ====
section
/-! DEFINITION. The assembler of 30_encoding.md R67 and R68: one line of text to the operation words it stands for.
Text is a list of characters. It is no part of the block: it is the notation of the spec's examples (log entry 12). -/

namespace Sys2Proof

/-- An operand of a line: a number or a colour name (R67). -/
inductive AsmOperand where
  | num (v : Int)
  | colour (c : Colour)
deriving DecidableEq, Repr

/-- The line without its comment: a `;` starts one (R67). -/
def asmUncomment : List Char → List Char
  | [] => []
  | c :: cs => if c = ';' then [] else c :: asmUncomment cs

/-- A blank. -/
def asmBlank (c : Char) : Bool := decide (c = ' ') || decide (c = '\t')

/-- Drop leading blanks. -/
def asmTrimStart : List Char → List Char
  | [] => []
  | c :: cs => if asmBlank c then asmTrimStart cs else c :: cs

/-- Drop blanks at both ends. -/
def asmTrim (cs : List Char) : List Char := (asmTrimStart (asmTrimStart cs).reverse).reverse

/-- The first word, and the rest. -/
def asmWord : List Char → List Char × List Char
  | [] => ([], [])
  | c :: cs => if asmBlank c then ([], cs) else let r := asmWord cs; (c :: r.1, r.2)

/-- The pieces between commas. -/
def asmSplit : List Char → List (List Char)
  | [] => [[]]
  | c :: cs =>
    if c = ',' then [] :: asmSplit cs
    else
      match asmSplit cs with
      | p :: ps => (c :: p) :: ps
      | [] => [[c]]

/-- The value of a digit in a base, decimal or hexadecimal. -/
def asmDigit (base : Nat) (c : Char) : Option Nat :=
  let n := c.toNat
  let d := if 48 ≤ n ∧ n ≤ 57 then n - 48 else if 65 ≤ n ∧ n ≤ 70 then n - 55 else if 97 ≤ n ∧ n ≤ 102 then n - 87 else 16
  if d < base then some d else none

/-- The number of a list of digits, from the left. -/
def asmDigits (base : Nat) : Nat → List Char → Option Nat
  | acc, [] => some acc
  | acc, c :: cs =>
    match asmDigit base c with
    | some d => asmDigits base (acc * base + d) cs
    | none => none

/-- A number without its sign: decimal, or hexadecimal after `0x` (R67). -/
def asmNat (cs : List Char) : Option Nat :=
  match cs with
  | [] => none
  | ['0', 'x'] => none
  | '0' :: 'x' :: ds => asmDigits 16 0 ds
  | ds => asmDigits 10 0 ds

/-- An operand (R67). -/
def asmOperand (cs : List Char) : Option AsmOperand :=
  if cs = "BLACK".toList then some (.colour .black)
  else if cs = "WHITE".toList then some (.colour .white)
  else if cs = "INVERSE".toList then some (.colour .inverse)
  else
    match cs with
    | '-' :: ds => (asmNat ds).map fun n => .num (-(n : Int))
    | ds => (asmNat ds).map fun n => .num n

/-- The operands of the rest of a line. -/
def asmOperands (cs : List Char) : Option (List AsmOperand) :=
  match asmTrim cs with
  | [] => some []
  | ds => (asmSplit ds).mapM fun p => asmOperand (asmTrim p)

/-- A byte operand. -/
def asmByte (v : Int) : Option Byte := if 0 ≤ v ∧ v ≤ 255 then some (BitVec.ofInt 8 v) else none

/-- The mnemonics that take no operand. -/
def asmBare (m : List Char) : Option (List Instr) :=
  if m = "STARTUP".toList then some [.startup]
  else if m = "DISPLAY".toList then some [.display]
  else if m = "SHUTDOWN".toList then some [.shutdown]
  else if m = "SCRSTOP".toList then some [.scrstop]
  else if m = "ROT0".toList then (Pseudo.rot .deg0).expand
  else if m = "ROT90".toList then (Pseudo.rot .deg90).expand
  else if m = "ROT180".toList then (Pseudo.rot .deg180).expand
  else if m = "ROT270".toList then (Pseudo.rot .deg270).expand
  else if m = "DISPON".toList then Pseudo.dispOn.expand
  else if m = "DISPOFF".toList then Pseudo.dispOff.expand
  else none

/-- The mnemonics with one number: SETROT, ENDISP, INVDISP. -/
def asmSmall (m : List Char) (v : Int) : Option (List Instr) :=
  if m = "SETROT".toList then
    if 0 ≤ v ∧ v ≤ 3 then some [.setrot (decodeRotation (BitVec.ofInt 2 v))] else none
  else if 0 ≤ v ∧ v ≤ 1 then
    if m = "ENDISP".toList then some [.endisp (decide (v = 1))]
    else if m = "INVDISP".toList then some [.invdisp (decide (v = 1))]
    else none
  else none

/-- The mnemonics with a start and a stop page. -/
def asmScroll (m : List Char) (start stop : Byte) : Option (List Instr) :=
  if m = "SCRL".toList then some [.scrl stop start]
  else if m = "SCRR".toList then some [.scrr stop start]
  else if m = "SCRDL".toList then some [.scrdl stop start]
  else if m = "SCRDR".toList then some [.scrdr stop start]
  else if m = "SCRUP".toList then some [.scrup stop start]
  else none

/-- The operations of a mnemonic and its operands (R67, R68); `none` where the line is not of the syntax or an
operand does not fit its field. -/
def asmInstrs (m : List Char) (ops : List AsmOperand) : Option (List Instr) :=
  match ops with
  | [] => asmBare m
  | [.num v] => asmSmall m v
  | [.num a, .num b] =>
    match asmByte a, asmByte b with
    | some start, some stop => asmScroll m start stop
    | _, _ => none
  | [.num x, .num y, .colour c] =>
    if m = "PIXEL".toList then (Pseudo.pixel x y c).expand else none
  | [.num x, .num y, .num len, .colour c] =>
    let i : Option Instr :=
      if m = "HRUN".toList then some (.hrun c len y x)
      else if m = "VRUN".toList then some (.vrun c len y x)
      else none
    match i with
    | some i => if i.wellFormed then some [i] else none
    | none => none
  | [.num x, .num y, .num w, .num h, .colour c] =>
    if m = "FILLRECT".toList then (Pseudo.fillRect x y w h c).expand else none
  | _ => none

/-- One line of assembly: the instructions it stands for; a blank line or a comment stands for none. -/
def assembleLine (line : List Char) : Option (List Instr) :=
  match asmTrim (asmUncomment line) with
  | [] => some []
  | cs =>
    match asmOperands (asmWord cs).2 with
    | some ops => asmInstrs (asmWord cs).1 ops
    | none => none

/-- One line of assembly as instruction words. -/
def assemble (p : Params) (line : List Char) : Option (List InstrWord) :=
  (assembleLine line).map fun is => is.map (encode p.wc)

end Sys2Proof
end

