-- ==== Sys2Proof/Tests/Slice0.lean ====
section
/-! SUPPORT. Tests against the worked examples of the spec (each names its source), and a witness for the hypotheses of
every obligation that has some. -/

/-- The next answers; those after them are `ok`. -/
def Sys2Proof.Machine.State.answering (s : Sys2Proof.Machine.State) (as : List Sys2Proof.Machine.Answer) :
    Sys2Proof.Machine.State := { s with transport := ⟨as, .ok⟩ }

namespace Sys2Proof.Tests

open Sys2Proof.Machine

/-! ## Small states -/

/-- The block of the spec's default parameters in `Active`, FB zero, DW empty (the start state of
95_test_vectors.md). -/
def active : State := { State.reset with lc := .active, pcfg := some (panelConfig Params.default) }

/-- The parameters of a block of another size. -/
def sized (g : Geometry) : Params := { Params.default with geometry := g }

/-- 20 x 12: HEIGHT not a multiple of 8. -/
def g20x12 : Geometry := ⟨20, 12, false, by decide, by decide⟩

/-- 20 x 8. -/
def g20x8 : Geometry := ⟨20, 8, false, by decide, by decide⟩

/-- 128 x 32, external power. -/
def g128x32 : Geometry := ⟨128, 32, true, by decide, by decide⟩

/-- 128 x 64, external power. -/
def g128x64e : Geometry := ⟨128, 64, true, by decide, by decide⟩

/-- 96 x 16. -/
def g96x16 (e : Bool) : Geometry := ⟨96, 16, e, by decide, by decide⟩

/-- 64 x 48: not in the panel table. -/
def g64x48 : Geometry := ⟨64, 48, false, by decide, by decide⟩

/-- A block of another size in `Active`. -/
def activeOf (g : Geometry) : State :=
  { State.resetWith (sized g) with lc := .active, pcfg := some (panelConfig (sized g)) }

/-- `k` answers `ok`, then `fail`. -/
def failAt (k : Nat) : List Answer := List.replicate k .ok ++ [.fail]

/-- `k` answers `ok`, then none. -/
def hangAt (k : Nat) : List Answer := List.replicate k .ok ++ [.never]

/-- A check on the next state of an instruction. -/
def after (i : Instr) (s : State) (check : State → Bool) : Bool :=
  match exec i s with
  | .next t => check t
  | .fault _ => false
  | .refused _ => false

/-- A check on the next state of a step. -/
def stepped (s : State) (check : State → Bool) : Bool :=
  match step s with
  | .next t => check t
  | .fault _ => false
  | .refused _ => false

/-- The result and the transactions an instruction ends with. -/
def ends (i : Instr) (s : State) (r : ResultCode) (l : List Txn) : Bool :=
  after i s fun t => decide (t.res = some r) && decide (t.trace = l.map fun x => ⟨x, true⟩)

/-- The same with the last transaction answered `fail`. -/
def endsFailed (i : Instr) (s : State) (l : List Txn) (last : Txn) : Bool :=
  after i s fun t => decide (t.res = some .eTransport) &&
    decide (t.trace = (l.map fun x => ⟨x, true⟩) ++ [⟨last, false⟩])

/-- P2 of 95_test_vectors.md before its third step: FB and DW after the two runs. -/
def crossing : State :=
  { active with
    fb := [(12, 0xE0), (138, 0x20), (139, 0x20), (140, 0xDF), (141, 0x20), (268, 0x07)]
    dw := ⟨10, 5, 13, 18⟩ }

/-! ## WellFormed: an ill-formed term for each check -/

theorem test_hrun_len_too_high : (Instr.hrun .white 32768 0 0).wellFormed = false := by decide

theorem test_hrun_len_too_low : (Instr.hrun .white (-32769) 0 0).wellFormed = false := by decide

theorem test_hrun_y_too_high : (Instr.hrun .white 0 32768 0).wellFormed = false := by decide

theorem test_hrun_y_too_low : (Instr.hrun .white 0 (-32769) 0).wellFormed = false := by decide

theorem test_hrun_x_too_high : (Instr.hrun .white 0 0 32768).wellFormed = false := by decide

theorem test_hrun_x_too_low : (Instr.hrun .white 0 0 (-32769)).wellFormed = false := by decide

/-- 30_encoding.md R61: the ends of the range. -/
theorem test_hrun_extremes : (Instr.hrun .white 32767 (-32768) (-32768)).wellFormed = true := by decide

theorem test_vrun_len_too_high : (Instr.vrun .white 32768 0 0).wellFormed = false := by decide

theorem test_vrun_len_too_low : (Instr.vrun .white (-32769) 0 0).wellFormed = false := by decide

theorem test_vrun_y_too_high : (Instr.vrun .white 0 32768 0).wellFormed = false := by decide

theorem test_vrun_y_too_low : (Instr.vrun .white 0 (-32769) 0).wellFormed = false := by decide

theorem test_vrun_x_too_high : (Instr.vrun .white 0 0 32768).wellFormed = false := by decide

theorem test_vrun_x_too_low : (Instr.vrun .white 0 0 (-32769)).wellFormed = false := by decide

/-- 30_encoding.md R61: the ends of the range. -/
theorem test_vrun_extremes : (Instr.vrun .white 32767 (-32768) (-32768)).wellFormed = true := by decide

/-! ## Decoding: host words (95_test_vectors.md section 2.9 and 2.8) -/

theorem test_decode_hrun_V_ENC_1 : decodeHost 0x0140000A0000FFFB = .ok (.hrun .white 10 0 (-5)) := by decide

theorem test_decode_hrun_V_ENC_8 :
    decodeHost 0x0100800080008000 = .ok (.hrun .black (-32768) (-32768) (-32768)) := by decide

theorem test_decode_vrun_V_ENC_3 : decodeHost 0x0280000E0005000C = .ok (.vrun .inverse 14 5 12) := by decide

theorem test_decode_vrun_V_ENC_9 : decodeHost 0x02807FFF7FFF7FFF = .ok (.vrun .inverse 32767 32767 32767) := by decide

theorem test_decode_setrot_V_ENC_10 : decodeHost 0x0300000000000002 = .ok (.setrot .deg180) := by decide

theorem test_decode_startup_V_ENC_11 : decodeHost 0x1000000000000000 = .ok .startup := by decide

theorem test_decode_display_V_ENC_11 : decodeHost 0x1100000000000000 = .ok .display := by decide

theorem test_decode_shutdown_V_ENC_11 : decodeHost 0x1200000000000000 = .ok .shutdown := by decide

theorem test_decode_endisp_V_ENC_12 : decodeHost 0x1300000000000001 = .ok (.endisp true) := by decide

theorem test_decode_invdisp_V_ENC_13 : decodeHost 0x1400000000000000 = .ok (.invdisp false) := by decide

theorem test_decode_scrl_V_SCR_6 : decodeHost 0x2000000000000502 = .ok (.scrl 5 2) := by decide

theorem test_decode_scrr_V_SCR_2 : decodeHost 0x2100000000000700 = .ok (.scrr 7 0) := by decide

theorem test_decode_scrdl_V_SCR_3 : decodeHost 0x2200000000000700 = .ok (.scrdl 7 0) := by decide

theorem test_decode_scrdr_V_SCR_4 : decodeHost 0x2300000000000700 = .ok (.scrdr 7 0) := by decide

theorem test_decode_scrup_V_SCR_5 : decodeHost 0x2400000000000700 = .ok (.scrup 7 0) := by decide

theorem test_decode_scrstop_V_SCR_8 : decodeHost 0x2500000000000000 = .ok .scrstop := by decide

theorem test_illegal_V_ILL_1 : decodeHost 0x0000000000000000 = .error .unknownOpcode := by decide

theorem test_illegal_V_ILL_2 : decodeHost 0xFF00000000000000 = .error .unknownOpcode := by decide

theorem test_illegal_V_ILL_3 : decodeHost 0x0400000000000000 = .error .unknownOpcode := by decide

theorem test_illegal_V_ILL_4 : decodeHost 0x01C0000100000000 = .error .reservedColour := by decide

theorem test_illegal_V_ILL_5 : decodeHost 0x0141000100000000 = .error .reservedBits := by decide

theorem test_illegal_V_ILL_6 : decodeHost 0x0300000000000004 = .error .reservedBits := by decide

theorem test_illegal_V_ILL_7 : decodeHost 0x1300000000000002 = .error .reservedBits := by decide

theorem test_illegal_V_ILL_8 : decodeHost 0x2000000000010000 = .error .reservedBits := by decide

theorem test_illegal_V_ILL_9 : decodeHost 0x1100000000000001 = .error .reservedBits := by decide

theorem test_illegal_V_ILL_10 : decodeHost 0x2600000000000000 = .error .unknownOpcode := by decide

/-! ## Decoding: the wire rows of spec/opcode_table.json, the code byte in the highest bits -/

theorem test_decode_wDisplayOff : decodeTableWord 8 0xAE = some .wDisplayOff := by decide

theorem test_decode_wDisplayOn : decodeTableWord 8 0xAF = some .wDisplayOn := by decide

theorem test_decode_wSetClockDiv : decodeTableWord 16 0xD580 = some (.wSetClockDiv 0x80) := by decide

theorem test_decode_wSetMultiplex : decodeTableWord 16 0xA83F = some (.wSetMultiplex 0x3F) := by decide

theorem test_decode_wMemoryMode : decodeTableWord 16 0x2000 = some (.wMemoryMode 0) := by decide

theorem test_decode_wSegRemap : decodeTableWord 8 0xA1 = some .wSegRemap := by decide

theorem test_decode_wComScanDec : decodeTableWord 8 0xC8 = some .wComScanDec := by decide

theorem test_decode_wSetVcomDeselect : decodeTableWord 16 0xDB40 = some (.wSetVcomDeselect 0x40) := by decide

theorem test_decode_wChargePump : decodeTableWord 16 0x8D14 = some (.wChargePump 0x14) := by decide

theorem test_decode_wSetDisplayOffset : decodeTableWord 16 0xD300 = some (.wSetDisplayOffset 0) := by decide

theorem test_decode_wSetStartLine : decodeTableWord 8 0x7F = some (.wSetStartLine 63) := by decide

theorem test_decode_wSetComPins : decodeTableWord 16 0xDA12 = some (.wSetComPins 0x12) := by decide

theorem test_decode_wSetContrast : decodeTableWord 16 0x81CF = some (.wSetContrast 0xCF) := by decide

theorem test_decode_wSetPrecharge : decodeTableWord 16 0xD9F1 = some (.wSetPrecharge 0xF1) := by decide

theorem test_decode_wDisplayAllOnResume : decodeTableWord 8 0xA4 = some .wDisplayAllOnResume := by decide

theorem test_decode_wNormalDisplay : decodeTableWord 8 0xA6 = some .wNormalDisplay := by decide

theorem test_decode_wInvertDisplay : decodeTableWord 8 0xA7 = some .wInvertDisplay := by decide

theorem test_decode_wDeactivateScroll : decodeTableWord 8 0x2E = some .wDeactivateScroll := by decide

theorem test_decode_wActivateScroll : decodeTableWord 8 0x2F = some .wActivateScroll := by decide

theorem test_decode_wSetVerticalScrollArea :
    decodeTableWord 24 0xA30040 = some (.wSetVerticalScrollArea 0 0x40) := by decide

theorem test_decode_wRightScroll :
    decodeTableWord 64 0x2601020304050607 = some (.wRightScroll 1 2 3 4 5 6 7) := by decide

theorem test_decode_wLeftScroll :
    decodeTableWord 64 0x2701020304050607 = some (.wLeftScroll 1 2 3 4 5 6 7) := by decide

theorem test_decode_wVertRightScroll :
    decodeTableWord 64 0x2901020304050607 = some (.wVertRightScroll 1 2 3 4 5 6 7) := by decide

theorem test_decode_wVertLeftScroll :
    decodeTableWord 64 0x2A01020304050607 = some (.wVertLeftScroll 1 2 3 4 5 6 7) := by decide

theorem test_decode_wColumnAddr : decodeTableWord 24 0x210A0D = some (.wColumnAddr 0x0A 0x0D) := by decide

theorem test_decode_wPageAddr : decodeTableWord 24 0x220207 = some (.wPageAddr 2 7) := by decide

/-- 30_encoding.md R76: the code byte has one parameter. -/
theorem test_wire_truncated : decodeWireWord {} [0xD5] = .error .truncatedWire := by decide

theorem test_wire_trailing : decodeWireWord {} [0xAE, 0xAF] = .error .trailingBytes := by decide

theorem test_wire_unknown : decodeWireWord {} [0xFF] = .error .unknownWireCode := by decide

/-- The default code record tells the commands apart. -/
theorem test_default_codes_decodable : WireCodes.default.Decodable := by decide

/-- 30_encoding.md R61, 45_operation_classes.md R213: sext_16 at every COORD_W. -/
theorem test_operand_256 : decodeHost 0x0140010000000000 = .ok (.hrun .white 256 0 0) := by decide

/-- 10_state.md R20: signed latches of COORD_W bits. -/
theorem test_latch_width :
    (Instr.hrun .white 32767 (-32768) 0).fits 16 = true ∧ (Instr.hrun .white 32768 0 0).fits 16 = false ∧
      (Instr.hrun .white 32768 0 0).fits 17 = true := by decide

/-! ## The assembler and the pseudo-operations (30_encoding.md R67, R68) -/

theorem test_assemble_V_ENC_14 :
    assemble {} "PIXEL 127, 63, WHITE".toList = some [.host 0x01400001003F007F] := by decide

theorem test_assemble_comment :
    assemble {} "HRUN -5, 0, 10, WHITE ; E4".toList = some [.host 0x0140000A0000FFFB] := by decide

theorem test_assemble_fillrect :
    assembleLine "FILLRECT 1, 2, 3, 2, BLACK".toList = some [.hrun .black 3 2 1, .hrun .black 3 3 1] := by decide

theorem test_fillrect_empty : (Pseudo.fillRect 0 0 5 (-1) .white).expand = some [] := by decide

/-- V-SCR-1. -/
theorem test_assemble_scroll_hex : assemble {} "SCRL 0, 0x0F".toList = some [.host 0x2000000000000F00] := by decide

theorem test_assemble_refuses : assembleLine "SETROT 4".toList = none := by decide

/-! ## Address decoder, colours, masks, window (95_test_vectors.md sections 2.1 to 2.3, 2.5) -/

theorem test_V_ADR_7 : active.cfg.geometry.index 127 63 = 1023 ∧ bitmask 63 = 0x80 := by decide

theorem test_V_ADR_8 : g20x12.index 19 11 = 39 ∧ bitmask 11 = 0x08 := by decide

theorem test_inverse_map : active.cfg.geometry.pixelOf 899 4 = (3, 60) := by decide

/-- 20_memory.md R54. -/
theorem test_address_bits : active.cfg.geometry.addressBits = 10 ∧ g128x32.addressBits = 9 := by decide

theorem test_V_COL :
    Colour.apply .black 0xFF 0x20 = 0xDF ∧ Colour.apply .inverse 0xA5 0x0F = 0xAA ∧ Colour.apply .white 0x00 0x20 = 0x20 := by
  decide

/-- 40_framebuffer.md R104. -/
theorem test_mask_tables :
    (List.range 8).map vlinePreMask = [0xFF, 0xFE, 0xFC, 0xF8, 0xF0, 0xE0, 0xC0, 0x80] ∧
      (List.range 8).map vlinePostMask = [0x00, 0x01, 0x03, 0x07, 0x0F, 0x1F, 0x3F, 0x7F] := by decide

theorem test_V_DW_3 : (Window.mk 10 13 13 13).expand 12 5 12 18 = ⟨10, 5, 13, 18⟩ := by decide

theorem test_V_DW_8 : Window.full g20x12 = ⟨0, 0, 19, 11⟩ ∧ (Window.sentinel g20x12).isEmpty = true := by decide

/-- 60_exceptions.md R170, 10_state.md R18, R31. -/
theorem test_codes :
    ResultCode.eIllegal.code = 3 ∧ Lifecycle.stopped.code = 4 ∧ Txn.release.kind = 3 ∧ (Txn.data [1, 2]).len = 2 := by
  decide

/-! ## Primitives (95_test_vectors.md section 2.4) -/

theorem test_V_FB_3 :
    (active.fbHrun 120 3 20 .white).fb = [(120, 8), (121, 8), (122, 8), (123, 8), (124, 8), (125, 8), (126, 8), (127, 8)] ∧
      (active.fbHrun 120 3 20 .white).dw = ⟨120, 3, 127, 3⟩ := by decide

theorem test_V_FB_10 :
    (active.fbHrun (-7) 5 7 .white).fb = [] ∧
      (active.fbHrun (-7) 5 7 .white).dw = ⟨128, 64, -1, -1⟩ := by decide

theorem test_V_FB_11 :
    (active.fbVrun 3 5 14 .white).fb = [(3, 0xE0), (131, 0xFF), (259, 0x07)] ∧
      (active.fbVrun 3 5 14 .white).dw = ⟨3, 5, 3, 18⟩ := by decide

theorem test_V_FB_11_bytes :
    (active.fbVrunBytes 3 5 14 .white).fb = [(3, 0xE0), (131, 0xFF), (259, 0x07)] ∧
      (active.fbVrunBytes 3 5 14 .white).dw = ⟨3, 5, 3, 18⟩ := by decide

theorem test_V_FB_12_bytes :
    (active.fbVrunBytes 3 5 2 .white).fb = [(3, 0x60)] ∧
      (active.fbVrunBytes 3 5 2 .white).dw = ⟨3, 5, 3, 6⟩ := by decide

theorem test_V_FB_16 :
    (active.fbVrun 3 (-4) 6 .white).fb = [(3, 3)] ∧
      (active.fbVrun 3 (-4) 6 .white).dw = ⟨3, 0, 3, 1⟩ := by decide

theorem test_V_FB_22 :
    ((active.fbVrun 3 5 14 .white).fbVrun 3 6 9 .black).fb = [(3, 0x20), (131, 0x80), (259, 0x07)] ∧
      ((active.fbVrun 3 5 14 .white).fbVrun 3 6 9 .black).dw = ⟨3, 5, 3, 18⟩ := by decide +kernel

/-! ## One step of each host operation -/

theorem test_hrun_V_ROT_3 :
    after (.hrun .white 5 3 2) { active with rot := .deg90 } (fun t =>
      decide (t.fb = [(124, 0x7C)]) && decide (t.dw = ⟨124, 2, 124, 6⟩)) = true := by decide

theorem test_hrun_E4 :
    after (.hrun .white 10 0 (-5)) (activeOf g20x8) (fun t =>
      decide (t.fb = [(0, 1), (1, 1), (2, 1), (3, 1), (4, 1)]) && decide (t.dw = ⟨0, 0, 4, 0⟩)) = true := by decide

theorem test_vrun_V_ROT_8 :
    after (.vrun .white 5 3 2) { active with rot := .deg270 } (fun t =>
      decide (t.fb = [(899, 32), (900, 32), (901, 32), (902, 32), (903, 32)]) &&
        decide (t.dw = ⟨3, 61, 7, 61⟩)) = true := by decide

/-- P2, step 2. -/
theorem test_vrun_P2 :
    after (.vrun .inverse 14 5 12)
      { active with fb := [(138, 32), (139, 32), (140, 32), (141, 32)], dw := ⟨10, 13, 13, 13⟩ } (fun t =>
      decide (t.fb = crossing.fb) && decide (t.dw = crossing.dw)) = true := by decide +kernel

/-- Section 2.6. -/
theorem test_setrot_uninitialized :
    after (.setrot .deg270) State.reset (fun t =>
      decide (t.rot = .deg270) && decide (t.res = some .ok)) = true := by decide

theorem test_setrot_V_ERR_7 :
    after (.setrot .deg90) { active with lc := .stopped } (fun t => decide (t.rot = .deg90)) = true := by decide

/-- V-SEQ-6 (V-SEQ-1 with the bytes it gives). -/
theorem test_startup_V_SEQ_6 :
    ends .startup (State.resetWith (sized g20x12)) .ok
      [.cmd1 0xAE, .cmdseq [0xD5, 0x80], .cmdseq [0xA8, 0x0B], .cmdseq [0x20, 0x00], .cmd1 0xA1, .cmd1 0xC8,
       .cmdseq [0xDB, 0x40], .cmdseq [0x8D, 0x14], .cmdseq [0xD3, 0x00], .cmd1 0x40, .cmdseq [0xDA, 0x02],
       .cmdseq [0x81, 0x8F], .cmdseq [0xD9, 0xF1], .cmd1 0xA4, .cmd1 0xA6, .cmd1 0x2E,
       .cmdseq [0x22, 0, 0, 0x21, 0, 0x13], .data (List.replicate 20 0), .cmdseq [0x22, 1, 1, 0x21, 0, 0x13],
       .data (List.replicate 20 0), .cmd1 0xAF] = true := by decide

theorem test_startup_V_SEQ_11 :
    endsFailed .startup (State.reset.answering (failAt 7))
      [.cmd1 0xAE, .cmdseq [0xD5, 0x80], .cmdseq [0xA8, 0x3F], .cmdseq [0x20, 0x00], .cmd1 0xA1, .cmd1 0xC8,
       .cmdseq [0xDB, 0x40]] (.cmdseq [0x8D, 0x14]) = true := by decide

/-- P2, step 3. -/
theorem test_display_P2 :
    ends .display crossing .ok
      [.cmdseq [0x22, 0, 0, 0x21, 0x0A, 0x0D], .data [0, 0, 0xE0, 0], .cmdseq [0x22, 1, 1, 0x21, 0x0A, 0x0D],
       .data [0x20, 0x20, 0xDF, 0x20], .cmdseq [0x22, 2, 2, 0x21, 0x0A, 0x0D], .data [0, 0, 7, 0]] = true := by decide

/-- P5, step 1. -/
theorem test_display_P5 :
    endsFailed .display (crossing.answering (failAt 3))
      [.cmdseq [0x22, 0, 0, 0x21, 0x0A, 0x0D], .data [0, 0, 0xE0, 0], .cmdseq [0x22, 1, 1, 0x21, 0x0A, 0x0D]]
      (.data [0x20, 0x20, 0xDF, 0x20]) = true := by decide

theorem test_shutdown_V_SEQ_9 : ends .shutdown active .ok [.cmd1 0x2E, .cmd1 0xAE, .release] = true := by decide

theorem test_shutdown_V_SEQ_14 :
    after .shutdown (active.answering (failAt 2)) (fun t =>
      decide (t.lc = .shuttingDown) && decide (t.res = some .eTransport)) = true := by decide

theorem test_endisp_V_SEQ_10 : ends (.endisp false) active .ok [.cmd1 0xAE] = true := by decide

theorem test_endisp_V_ERR_10 :
    endsFailed (.endisp true) (active.answering [.fail]) [] (.cmd1 0xAF) = true := by decide

theorem test_invdisp_V_SEQ_10 : ends (.invdisp true) active .ok [.cmd1 0xA7] = true := by decide

/-- 60_exceptions.md R181. -/
theorem test_invdisp_uninitialized :
    after (.invdisp true) State.reset (fun t => decide (t.res = some .eUsage) && decide (t.trace = [])) = true := by
  decide

theorem test_scrl_V_SCR_1 :
    ends (.scrl 0x0F 0) active .ok
      [.cmd1 0x2E, .cmdseq [0xA3, 0x00, 0x40], .cmdseq [0x27, 0, 0, 0, 0x0F, 0, 0, 0x7F], .cmd1 0x2F] = true := by
  decide

theorem test_scrl_V_SCR_9 :
    ends (.scrl 7 0) (activeOf g128x32) .ok
      [.cmd1 0x2E, .cmdseq [0xA3, 0x00, 0x20], .cmdseq [0x27, 0, 0, 0, 7, 0, 0, 0x7F], .cmd1 0x2F] = true := by decide

theorem test_scrr_V_SCR_2 :
    ends (.scrr 7 0) active .ok
      [.cmd1 0x2E, .cmdseq [0xA3, 0x00, 0x40], .cmdseq [0x26, 0, 0, 0, 7, 0, 0, 0x7F], .cmd1 0x2F] = true := by decide

theorem test_scrdl_V_SCR_3 :
    ends (.scrdl 7 0) active .ok
      [.cmd1 0x2E, .cmdseq [0xA3, 0x00, 0x40], .cmdseq [0x2A, 1, 0, 0, 7, 1, 0, 0x7F], .cmd1 0x2F] = true := by decide

theorem test_scrdr_V_SCR_4 :
    ends (.scrdr 7 0) active .ok
      [.cmd1 0x2E, .cmdseq [0xA3, 0x00, 0x40], .cmdseq [0x29, 1, 0, 0, 7, 1, 0, 0x7F], .cmd1 0x2F] = true := by decide

theorem test_scrdr_V_SCR_10 :
    endsFailed (.scrdr 7 0) (active.answering (failAt 2)) [.cmd1 0x2E, .cmdseq [0xA3, 0x00, 0x40]]
      (.cmdseq [0x29, 1, 0, 0, 7, 1, 0, 0x7F]) = true := by decide

theorem test_scrup_V_SCR_5 :
    ends (.scrup 7 0) active .ok
      [.cmd1 0x2E, .cmdseq [0xA3, 0x00, 0x40], .cmdseq [0x29, 0, 0, 0, 7, 1, 0, 0x7F], .cmd1 0x2F] = true := by decide

theorem test_scrstop_V_SCR_8 :
    after .scrstop active (fun t => decide (t.dw = ⟨0, 0, 127, 63⟩) && decide (t.trace = [⟨.cmd1 0x2E, true⟩])) = true := by
  decide

theorem test_scrstop_V_SCR_11 :
    after .scrstop (active.answering [.fail]) (fun t =>
      decide (t.dw = ⟨0, 0, 127, 63⟩) && decide (t.res = some .eTransport)) = true := by decide

/-! ## One step of each wire command (30_encoding.md R74 to R99, default codes) -/

theorem test_exec_wDisplayOff : ends .wDisplayOff State.reset .ok [.cmd1 0xAE] = true := by decide

theorem test_exec_wDisplayOn : ends .wDisplayOn State.reset .ok [.cmd1 0xAF] = true := by decide

theorem test_exec_wSetClockDiv : ends (.wSetClockDiv 0x80) State.reset .ok [.cmdseq [0xD5, 0x80]] = true := by decide

theorem test_exec_wSetMultiplex :
    ends (.wSetMultiplex 0x3F) State.reset .ok [.cmdseq [0xA8, 0x3F]] = true := by decide

theorem test_exec_wMemoryMode : ends (.wMemoryMode 0) State.reset .ok [.cmdseq [0x20, 0x00]] = true := by decide

theorem test_exec_wSegRemap : ends .wSegRemap State.reset .ok [.cmd1 0xA1] = true := by decide

theorem test_exec_wComScanDec : ends .wComScanDec State.reset .ok [.cmd1 0xC8] = true := by decide

theorem test_exec_wSetVcomDeselect :
    ends (.wSetVcomDeselect 0x40) State.reset .ok [.cmdseq [0xDB, 0x40]] = true := by decide

theorem test_exec_wChargePump : ends (.wChargePump 0x14) State.reset .ok [.cmdseq [0x8D, 0x14]] = true := by decide

theorem test_exec_wSetDisplayOffset :
    ends (.wSetDisplayOffset 0) State.reset .ok [.cmdseq [0xD3, 0x00]] = true := by decide

theorem test_exec_wSetStartLine : ends (.wSetStartLine 63) State.reset .ok [.cmd1 0x7F] = true := by decide

theorem test_exec_wSetComPins : ends (.wSetComPins 0x12) State.reset .ok [.cmdseq [0xDA, 0x12]] = true := by decide

theorem test_exec_wSetContrast : ends (.wSetContrast 0xCF) State.reset .ok [.cmdseq [0x81, 0xCF]] = true := by decide

theorem test_exec_wSetPrecharge :
    ends (.wSetPrecharge 0xF1) State.reset .ok [.cmdseq [0xD9, 0xF1]] = true := by decide

theorem test_exec_wDisplayAllOnResume : ends .wDisplayAllOnResume State.reset .ok [.cmd1 0xA4] = true := by decide

theorem test_exec_wNormalDisplay : ends .wNormalDisplay State.reset .ok [.cmd1 0xA6] = true := by decide

theorem test_exec_wInvertDisplay : ends .wInvertDisplay State.reset .ok [.cmd1 0xA7] = true := by decide

theorem test_exec_wDeactivateScroll : ends .wDeactivateScroll State.reset .ok [.cmd1 0x2E] = true := by decide

theorem test_exec_wActivateScroll : ends .wActivateScroll State.reset .ok [.cmd1 0x2F] = true := by decide

theorem test_exec_wSetVerticalScrollArea :
    ends (.wSetVerticalScrollArea 0 0x40) State.reset .ok [.cmdseq [0xA3, 0x00, 0x40]] = true := by decide

theorem test_exec_wRightScroll :
    ends (.wRightScroll 1 2 3 4 5 6 7) State.reset .ok [.cmdseq [0x26, 0x01, 0x02, 0x03, 0x04, 0x05, 0x06, 0x07]] = true := by
  decide

theorem test_exec_wLeftScroll :
    ends (.wLeftScroll 1 2 3 4 5 6 7) State.reset .ok [.cmdseq [0x27, 0x01, 0x02, 0x03, 0x04, 0x05, 0x06, 0x07]] = true := by
  decide

theorem test_exec_wVertRightScroll :
    ends (.wVertRightScroll 1 2 3 4 5 6 7) State.reset .ok [.cmdseq [0x29, 0x01, 0x02, 0x03, 0x04, 0x05, 0x06, 0x07]] = true := by
  decide

theorem test_exec_wVertLeftScroll :
    ends (.wVertLeftScroll 1 2 3 4 5 6 7) State.reset .ok [.cmdseq [0x2A, 0x01, 0x02, 0x03, 0x04, 0x05, 0x06, 0x07]] = true := by
  decide

theorem test_exec_wColumnAddr :
    ends (.wColumnAddr 0x0A 0x0D) State.reset .ok [.cmdseq [0x21, 0x0A, 0x0D]] = true := by decide

theorem test_exec_wPageAddr : ends (.wPageAddr 2 7) State.reset .ok [.cmdseq [0x22, 0x02, 0x07]] = true := by decide

/-! ## The step, reset and the panel -/

/-- 70_reset_and_hazards.md R195. -/
theorem test_step_idle : step State.reset = .next State.reset := rfl

theorem test_step_illegal_V_ERR_6 :
    stepped ({ active with lc := .stopped }.present (.host 0x01C0000100000000)) (fun t =>
      decide (t.res = some .eIllegal) && decide (t.fb = [])) = true := by decide

/-- V-ENC-10. -/
theorem test_step_runs :
    stepped (State.reset.withFetchWord 64 0x0300000000000003) (fun t => decide (t.rot = .deg270)) = true := by decide

/-- 70_reset_and_hazards.md R193. -/
theorem test_step_reset :
    stepped { crossing with inputs := [.rst] } (fun t =>
      decide (t.fb = []) && decide (t.dw = ⟨128, 64, -1, -1⟩)) = true := by decide

/-- 70_reset_and_hazards.md R207. -/
theorem test_step_stuck :
    step { (State.reset.sentUnanswered (.cmd1 0xAE)) with inputs := [] } = .fault .transportNeverAnswers := rfl

/-- 70_reset_and_hazards.md R194. -/
theorem test_step_reset_while_waiting :
    stepped { (State.reset.sentUnanswered (.cmd1 0xAE)) with inputs := [.rst] } (fun t =>
      decide (t.opReady = true) && decide (t.results = [])) = true := by decide

/-- 20_memory.md R46: page 1, columns 10 to 13 (P2, step 3). -/
theorem test_panel_window :
    ((({ Panel.unknown with scrolling := some false, memoryMode := some 0 }).delivered {}
      (.cmdseq [0x22, 1, 1, 0x21, 0x0A, 0x0D])).delivered {} (.data [0x20, 0x20, 0xDF, 0x20])).gddram =
      [(0x10A, 0x20), (0x10B, 0x20), (0x10C, 0xDF), (0x10D, 0x20)] := by decide

/-- 20_memory.md R46: a scroll is active. -/
theorem test_panel_unknown_in_scroll :
    (({ Panel.unknown with scrolling := some true, memoryMode := some 0, gddram := [(0, 1)] }).delivered {}
      (.data [0x20])).gddram = [] := by decide

theorem test_panelConfig_V_SEQ_2 : panelConfig (sized g128x32) = ⟨0x1F, 0x02, 0x8F, 0x10, 0, 0⟩ := by decide

theorem test_panelConfig_V_SEQ_4 : panelConfig (sized (g96x16 false)) = ⟨0x0F, 0x02, 0xAF, 0x14, 0, 0⟩ := by decide

theorem test_panelConfig_V_SEQ_5 : panelConfig (sized g64x48) = ⟨0x2F, 0x02, 0x8F, 0x14, 0, 0⟩ := by decide

/-- 30_encoding.md R79: the low bit of the code. -/
theorem test_ghost_segment_remap :
    (Panel.unknown.apply { WireCodes.default with segRemap := 0xA0 } .wSegRemap).segRemapped = some false := by decide

/-- 43_sequencer.md R133: the third size is a parameter. -/
theorem test_panelConfig_third_size :
    (panelConfig { sized g64x48 with panelTable := { third := (64, 48) } }).contrast = 0xAF := by decide

theorem test_panelConfig_P1 : panelConfig Params.default = ⟨0x3F, 0x12, 0xCF, 0x14, 0, 0⟩ := by decide

/-! ## Witnesses: a state and operands that meet the hypotheses of each obligation -/

theorem active_inv : active.Inv where
  fb_wf := by decide
  dw_legal := by decide
  ready_idle := fun _ => ⟨rfl, rfl, rfl⟩
  busy_waits := nofun
  latch_fits := nofun
  dw_fits := by decide
  pcfg_fixed := .inr rfl
  pcfg_unwritten := ⟨nofun, nofun⟩
  uninit_clean := nofun

theorem witness_ResetLineResetsFromEveryState : { active with inputs := [.rst] }.inputs = .rst :: [] := rfl

theorem witness_ConstructRefuses_legal_low :
    (1 : Int) ≤ 1 ∧ (1 : Int) ≤ 128 ∧ (1 : Int) ≤ 1 ∧ (1 : Int) ≤ 64 := by decide

theorem witness_ConstructRefuses_legal_high :
    (1 : Int) ≤ 128 ∧ (128 : Int) ≤ 128 ∧ (1 : Int) ≤ 64 ∧ (64 : Int) ≤ 64 := by decide

theorem witness_ConstructRefuses_wide :
    ¬ ((1 : Int) ≤ 129 ∧ (129 : Int) ≤ 128 ∧ (1 : Int) ≤ 64 ∧ (64 : Int) ≤ 64) := by decide

theorem witness_ConstructRefuses_negative :
    ¬ ((1 : Int) ≤ -1 ∧ (-1 : Int) ≤ 128 ∧ (1 : Int) ≤ 64 ∧ (64 : Int) ≤ 64) := by decide

theorem witness_HostDecodeInvertsEncode :
    (Instr.hrun .white 32767 (-32768) (-5)).isHost = true ∧ (Instr.hrun .white 32767 (-32768) (-5)).wellFormed = true := by
  decide

theorem witness_WireDecodeInvertsEncode :
    WireCodes.default.Decodable ∧ (Instr.wSetStartLine 63).isHost = false := by decide

theorem witness_HostEncodeInvertsDecode :
    decodeHost 0x02807FFF7FFF7FFF = .ok (.vrun .inverse 32767 32767 32767) := by decide

theorem witness_StepRunsTheDecodedInstruction :
    (active.present (.wire [0xD5, 0x80])).inputs = .word (.wire [0xD5, 0x80]) :: [] ∧
      (active.present (.wire [0xD5, 0x80])).opReady = true ∧
      decode active.cfg (.wire [0xD5, 0x80]) = .ok (.wSetClockDiv 0x80) := by decide

theorem witness_IllegalWordEndsIllegal :
    (active.present (.host 0)).inputs = .word (.host 0) :: [] ∧ (active.present (.host 0)).opReady = true ∧
      decodeHost 0 = .error .unknownOpcode := by decide

theorem witness_NothingPresented_idle : active.opReady = true ∧ active.inputs = [] := by decide

theorem witness_NothingPresented_waiting : (active.sentUnanswered .release).opReady = false ∧
      ∀ rest, (active.sentUnanswered .release).inputs ≠ .rst :: rest := ⟨rfl, nofun⟩

theorem witness_Unanswered_startup_0 : (State.resetWith (sized g20x12)).lc = .uninitialized ∧
      0 < (startupByRule (sized g20x12) ((State.resetWith (sized g20x12)).runCalls []).fb).length ∧
      ((State.resetWith (sized g20x12)).answering (hangAt 0)).transport.HangsAt 0 := by decide

theorem witness_Unanswered_startup_15 : (State.resetWith (sized g20x12)).lc = .uninitialized ∧
      15 < (startupByRule (sized g20x12) ((State.resetWith (sized g20x12)).runCalls []).fb).length ∧
      ((State.resetWith (sized g20x12)).answering (hangAt 15)).transport.HangsAt 15 := by decide

theorem witness_Unanswered_startup_16 : (State.resetWith (sized g20x12)).lc = .uninitialized ∧
      16 < (startupByRule (sized g20x12) ((State.resetWith (sized g20x12)).runCalls []).fb).length ∧
      ((State.resetWith (sized g20x12)).answering (hangAt 16)).transport.HangsAt 16 := by decide

theorem witness_Unanswered_startup_20 : (State.resetWith (sized g20x12)).lc = .uninitialized ∧
      20 < (startupByRule (sized g20x12) ((State.resetWith (sized g20x12)).runCalls []).fb).length ∧
      ((State.resetWith (sized g20x12)).answering (hangAt 20)).transport.HangsAt 20 := by decide

theorem witness_Unanswered_display_0 : (crossing.answering (hangAt 0)).lc = .active ∧ crossing.dw.isEmpty = false ∧
      Window.Legal crossing.cfg.geometry crossing.dw ∧ 0 < (flushByRule (crossing.answering (hangAt 0))).length ∧
      (crossing.answering (hangAt 0)).transport.HangsAt 0 := by decide

theorem witness_Unanswered_display_5 : (crossing.answering (hangAt 5)).lc = .active ∧ crossing.dw.isEmpty = false ∧
      Window.Legal crossing.cfg.geometry crossing.dw ∧ 5 < (flushByRule (crossing.answering (hangAt 5))).length ∧
      (crossing.answering (hangAt 5)).transport.HangsAt 5 := by decide

theorem witness_Unanswered_active_0 :
    (active.answering (hangAt 0)).lc = .active ∧ (active.answering (hangAt 0)).transport.HangsAt 0 ∧
      0 < (scrollByRule active.cfg active.cfg.opScrollUp 0 active.cfg.scrollVinc 255 0).length := by decide

theorem witness_Unanswered_active_2 :
    (active.answering (hangAt 2)).lc = .active ∧ (active.answering (hangAt 2)).transport.HangsAt 2 ∧
      2 < (scrollByRule active.cfg active.cfg.opScrollUp 0 active.cfg.scrollVinc 255 0).length := by decide

theorem witness_Unanswered_active_3 :
    (active.answering (hangAt 3)).lc = .active ∧ (active.answering (hangAt 3)).transport.HangsAt 3 ∧
      3 < (scrollByRule active.cfg active.cfg.opScrollUp 0 active.cfg.scrollVinc 255 0).length := by decide

theorem witness_Unanswered_wire :
    Instr.wDisplayOn.isHost = false ∧ (active.answering (hangAt 0)).transport.HangsAt 0 ∧
      0 < [commandTxn (encode active.cfg.wc .wDisplayOn).bytes].length := by decide

theorem witness_ColourOperation : (bitmask 63).getLsbD 0 = false := by decide

theorem witness_AddressDecoder_pixel :
    127 < Params.default.geometry.width ∧ 63 < Params.default.geometry.height := by decide

theorem witness_AddressDecoder_byte : 1023 < Params.default.geometry.fbSize ∧ 7 < 8 := by decide

theorem witness_HorizontalPrimitive : crossing.FbWf := by decide

theorem witness_VerticalPrimitive : (activeOf g20x12).FbWf := by decide

theorem witness_ByteDecompositionEqualsPixelMeaning : crossing.FbWf := by decide

theorem witness_EmptyRuns_exact : crossing.FbWf := by decide

theorem witness_EmptyRuns_length :
    (0 : Int) ≤ 0 ∨ ∀ px py, ¬ Covers g20x12 .horizontal 5 5 0 px py := .inl (by decide)

theorem witness_EmptyRuns_outside : (1 : Int) ≤ 0 ∨ ∀ px py, ¬ Covers g20x12 .horizontal 20 0 1 px py := by
  refine .inr fun px py h => ?_
  have h1 : px < 20 := h.1
  have h2 := h.2.2.2.1
  omega

theorem witness_ToggleParity :
    crossing.FbWf ∧ Covers crossing.cfg.geometry .horizontal 126 63 5 127 63 ∧ Colour.black ≠ .inverse := by
  refine ⟨by decide, ⟨by decide, by decide, by decide, by decide, by decide⟩, by decide⟩

theorem witness_ExpandIsTheUnion_inside :
    (crossing.dw.x1 ≤ 10 ∧ crossing.dw.y1 ≤ 6 ∧ (13 : Int) ≤ crossing.dw.x2 ∧ (18 : Int) ≤ crossing.dw.y2) := by
  decide

theorem witness_ExpandIsTheUnion_sentinel :
    (0 : Int) ≤ 0 ∧ (0 : Int) ≤ 19 ∧ (19 : Int) ≤ (g20x12.width : Int) - 1 ∧ (0 : Int) ≤ 11 ∧
      (11 : Int) ≤ (g20x12.height : Int) - 1 := by decide

theorem witness_EmptyIsTheSentinel_empty : Window.Legal g20x12 ⟨20, 12, -1, -1⟩ := by decide

theorem witness_EmptyIsTheSentinel_box : Window.Legal g20x12 ⟨19, 11, 19, 11⟩ := by decide

theorem witness_WindowIsTheExactBoundingBox : active.dw = Window.sentinel active.cfg.geometry ∧
      ∃ t, (active.runCalls [⟨.horizontal, 0, 0, 1, .white⟩]).flush = .done t := ⟨by decide, _, rfl⟩

theorem witness_WindowForgetsTheDrawingOrder :
    [PrimCall.mk .horizontal 0 0 1 .white, ⟨.vertical, 3, 5, 14, .black⟩].Perm
      [⟨.vertical, 3, 5, 14, .black⟩, ⟨.horizontal, 0, 0, 1, .white⟩] := List.Perm.swap _ _ _

theorem witness_WindowOnlyGrowsUntilReset :
    Window.Legal active.cfg.geometry active.dw ∧ ∃ t, exec (.hrun .white 1 0 0) active = .next t := ⟨by decide, _, rfl⟩

theorem witness_HorizontalRun_encoding : (Instr.hrun .inverse (-32768) 32767 (-5)).wellFormed = true := by decide

theorem witness_VerticalRun_encoding : (Instr.vrun .black 32767 (-32768) 0).wellFormed = true := by decide

theorem witness_HorizontalRun_active : active.lc = .active ∧ (0 : Int) ≤ 0 := by decide

theorem witness_HorizontalRun_refused : State.reset.lc ≠ .active := by decide

theorem witness_VerticalRun_active : { active with rot := .deg90 }.lc = .active := by decide

theorem witness_VerticalRun_refused : { active with lc := .stopped }.lc ≠ .active := by decide

theorem witness_RunsPaintTheirPointImages : crossing.FbWf ∧ crossing.lc = .active := by decide

theorem witness_DrawingFrame : ∃ t, exec (.vrun .white 5 3 2) active = .next t := ⟨_, rfl⟩

theorem witness_PadBits : (activeOf g20x12).FbWf ∧ (∃ t, exec (.vrun .white 100 0 19) (activeOf g20x12) = .next t) ∧
      19 < g20x12.width ∧ g20x12.height ≤ 12 := ⟨by decide, ⟨_, rfl⟩, by decide, by decide⟩

theorem witness_UsageErrorChangesNothing :
    accepts .display State.reset.lc = false ∧ accepts .startup active.lc = false := by decide

theorem witness_OnlyTheListedCodes :
    Instr.startup.isHost = true ∧ ∃ t, exec .startup active = .next t := ⟨rfl, _, rfl⟩

theorem witness_LifecycleTransitions :
    (∃ t, exec .shutdown active = .next t) ∧ (∃ t, step { active with lc := .stopped } = .next t) ∧
      { active with lc := .stopped }.lc = .stopped := ⟨⟨_, rfl⟩, ⟨_, rfl⟩, rfl⟩

theorem witness_PanelConfiguration_128x64_external : (sized g128x64e).panelTable = {} ∧ (sized g128x64e).wc = {} ∧
      (sized g128x64e).geometry.width = 128 ∧ (sized g128x64e).geometry.height = 64 ∧ (sized g128x64e).geometry.extvcc = true := by
  decide

theorem witness_PanelConfiguration_128x64_internal : Params.default.panelTable = {} ∧ Params.default.wc = {} ∧
      Params.default.geometry.width = 128 ∧ Params.default.geometry.height = 64 ∧ Params.default.geometry.extvcc = false := by
  decide

theorem witness_PanelConfiguration_128x32 : (sized g128x32).panelTable = {} ∧ (sized g128x32).wc = {} ∧
      (sized g128x32).geometry.width = 128 ∧ (sized g128x32).geometry.height = 32 := by decide

theorem witness_PanelConfiguration_96x16_internal :
    (sized (g96x16 false)).panelTable = {} ∧ (sized (g96x16 false)).wc = {} ∧
      (sized (g96x16 false)).geometry.width = 96 ∧ (sized (g96x16 false)).geometry.height = 16 ∧ (sized (g96x16 false)).geometry.extvcc = false := by
  decide

theorem witness_PanelConfiguration_96x16_external :
    (sized (g96x16 true)).panelTable = {} ∧ (sized (g96x16 true)).wc = {} ∧
      (sized (g96x16 true)).geometry.width = 96 ∧ (sized (g96x16 true)).geometry.height = 16 ∧ (sized (g96x16 true)).geometry.extvcc = true := by
  decide

theorem witness_PanelConfiguration_any_table :
    ({ sized g128x32 with panelTable := { other := ⟨0, 0⟩ } } : Params).geometry.width = 128 ∧
      ({ sized g128x32 with panelTable := { other := ⟨0, 0⟩ } } : Params).geometry.height = 32 ∧
      Params.default.geometry.extvcc = false := by decide

theorem witness_PanelConfiguration_other : (sized g64x48).panelTable = {} ∧ (sized g64x48).wc = {} ∧
      ((sized g64x48).geometry.width, (sized g64x48).geometry.height) ∉ [(128, 64), (128, 32), (96, 16)] := by decide

theorem witness_StartupRunsTheStartupList : State.reset.lc = .uninitialized ∧
      State.reset.transport.AllOk (17 + 2 * State.reset.cfg.geometry.pages) := by decide

theorem witness_StartupFailure_0 : (State.resetWith (sized g20x12)).lc = .uninitialized ∧
      0 < 17 + 2 * (State.resetWith (sized g20x12)).cfg.geometry.pages ∧
      ((State.resetWith (sized g20x12)).answering (failAt 0)).transport.FailsAt 0 := by decide

theorem witness_StartupFailure_15 : (State.resetWith (sized g20x12)).lc = .uninitialized ∧
      15 < 17 + 2 * (State.resetWith (sized g20x12)).cfg.geometry.pages ∧
      ((State.resetWith (sized g20x12)).answering (failAt 15)).transport.FailsAt 15 := by decide

theorem witness_StartupFailure_16 : (State.resetWith (sized g20x12)).lc = .uninitialized ∧
      16 < 17 + 2 * (State.resetWith (sized g20x12)).cfg.geometry.pages ∧
      ((State.resetWith (sized g20x12)).answering (failAt 16)).transport.FailsAt 16 := by decide

theorem witness_StartupFailure_19 : (State.resetWith (sized g20x12)).lc = .uninitialized ∧
      19 < 17 + 2 * (State.resetWith (sized g20x12)).cfg.geometry.pages ∧
      ((State.resetWith (sized g20x12)).answering (failAt 19)).transport.FailsAt 19 := by decide

theorem witness_StartupFailure_20 : (State.resetWith (sized g20x12)).lc = .uninitialized ∧
      20 < 17 + 2 * (State.resetWith (sized g20x12)).cfg.geometry.pages ∧
      ((State.resetWith (sized g20x12)).answering (failAt 20)).transport.FailsAt 20 := by decide

theorem witness_FlushSendsTheWindow_empty :
    Window.Legal active.cfg.geometry active.dw ∧ active.dw.x2 - active.dw.x1 + 1 ≤ 0 := by decide

theorem witness_FlushSendsTheWindow_fails_0 :
    Window.Legal crossing.cfg.geometry crossing.dw ∧ 0 < crossing.dw.x2 - crossing.dw.x1 + 1 ∧
      0 < (flushByRule crossing).length ∧ (crossing.answering (failAt 0)).transport.FailsAt 0 := by decide

theorem witness_FlushSendsTheWindow_fails_5 :
    Window.Legal crossing.cfg.geometry crossing.dw ∧ 0 < crossing.dw.x2 - crossing.dw.x1 + 1 ∧
      5 < (flushByRule crossing).length ∧ (crossing.answering (failAt 5)).transport.FailsAt 5 := by decide

theorem witness_FlushSendsTheWindow_dirty :
    Window.Legal crossing.cfg.geometry crossing.dw ∧ 0 < crossing.dw.x2 - crossing.dw.x1 + 1 ∧
      crossing.transport.AllOk (flushByRule crossing).length := by decide

theorem witness_DisplaySendsTheDirtyWindow :
    crossing.lc = .active ∧ Window.Legal crossing.cfg.geometry crossing.dw ∧ crossing.dw.isEmpty = false ∧
      crossing.transport.AllOk (flushByRule crossing).length := by decide

theorem witness_EmptyWindowSendsNothing : active.lc = .active ∧ active.dw.isEmpty = true := by decide

theorem witness_EmptyWindow_after_a_flush : ∃ t, crossing.flush = .done t := ⟨_, rfl⟩

theorem witness_FailedFlush_0 :
    (crossing.answering (failAt 0)).lc = .active ∧ Window.Legal crossing.cfg.geometry crossing.dw ∧
      crossing.dw.isEmpty = false ∧ 0 < (flushByRule crossing).length ∧
      (crossing.answering (failAt 0)).transport.FailsAt 0 := by decide

theorem witness_FailedFlush_5 :
    (crossing.answering (failAt 5)).lc = .active ∧ Window.Legal crossing.cfg.geometry crossing.dw ∧
      crossing.dw.isEmpty = false ∧ 5 < (flushByRule crossing).length ∧
      (crossing.answering (failAt 5)).transport.FailsAt 5 := by decide

theorem witness_FlushTraffic :
    Window.Legal crossing.cfg.geometry crossing.dw ∧ crossing.dw.isEmpty = false ∧ crossing.lc = .active ∧
      crossing.transport.AllOk (2 * (crossing.dw.y2.toNat / 8 - crossing.dw.y1.toNat / 8 + 1)) := by decide

theorem witness_FlushTraffic_done : ∃ t, crossing.flush = .done t := ⟨_, rfl⟩

theorem witness_NoStepReads_invariant : active.Inv := active_inv

theorem witness_NoStepReads_outside :
    active.Inv ∧ Memory.rising [(1024, 255)] = true ∧ SameInside active.cfg [(1024, 255)] active.fb ∧
      ∃ t, step active = .next t := 
  ⟨active_inv, by decide, fun i hi => by
    have : (1024 : Nat) ≠ i := by
      have h : i < 1024 := hi
      omega
    simp [fbRead, Memory.get?, this, active, State.reset, State.resetWith], _, rfl⟩

theorem witness_NoStepReads_left :
    { active with dw := ⟨-1, 0, 0, 0⟩ }.lc = .active ∧ { active with dw := ⟨-1, 0, 0, 0⟩ }.dw.isEmpty = false ∧
      { active with dw := ⟨-1, 0, 0, 0⟩ }.dw.x1 < 0 := by decide

theorem witness_NoStepReads_right :
    { active with dw := ⟨0, 0, 128, 0⟩ }.lc = .active ∧ { active with dw := ⟨0, 0, 128, 0⟩ }.dw.isEmpty = false ∧
      ({ active with dw := ⟨0, 0, 128, 0⟩ }.cfg.geometry.width : Int) ≤ { active with dw := ⟨0, 0, 128, 0⟩ }.dw.x2 := by
  decide

theorem witness_NoStepReads_top :
    { active with dw := ⟨0, -1, 0, 0⟩ }.lc = .active ∧ { active with dw := ⟨0, -1, 0, 0⟩ }.dw.isEmpty = false ∧
      { active with dw := ⟨0, -1, 0, 0⟩ }.dw.y1 < 0 := by decide

theorem witness_NoStepReads_bottom :
    { active with dw := ⟨0, 0, 0, 64⟩ }.lc = .active ∧ { active with dw := ⟨0, 0, 0, 64⟩ }.dw.isEmpty = false ∧
      ({ active with dw := ⟨0, 0, 0, 64⟩ }.cfg.geometry.height : Int) ≤ { active with dw := ⟨0, 0, 0, 64⟩ }.dw.y2 := by
  decide

theorem witness_Shutdown_ok : active.lc = .active ∧ active.transport.AllOk 3 := by decide

theorem witness_Shutdown_fails_0 :
    (active.answering (failAt 0)).lc = .active ∧ 0 < 3 ∧ (active.answering (failAt 0)).transport.FailsAt 0 := by
  decide

theorem witness_Shutdown_fails_2 :
    (active.answering (failAt 2)).lc = .active ∧ 2 < 3 ∧ (active.answering (failAt 2)).transport.FailsAt 2 := by
  decide

theorem witness_PanelMode_ok : active.lc = .active ∧ active.transport.answer 0 = .ok := by decide

theorem witness_PanelMode_fail :
    (active.answering [.fail]).lc = .active ∧ (active.answering [.fail]).transport.answer 0 = .fail := by decide

theorem witness_ScrollSequences : active.lc = .active ∧ active.transport.AllOk 4 := by decide

theorem witness_ScrollFailure_0 : (active.answering (failAt 0)).lc = .active ∧ 0 < 4 ∧
      (active.answering (failAt 0)).transport.FailsAt 0 ∧
      (Instr.scrup 255 0, active.cfg.opScrollUp, (0 : Byte), active.cfg.scrollVinc) ∈
        [(Instr.scrl 255 0, active.cfg.wc.leftScroll, 0, 0), (.scrr 255 0, active.cfg.wc.rightScroll, 0, 0),
          (.scrdl 255 0, active.cfg.wc.vertLeftScroll, 1, active.cfg.scrollVinc),
          (.scrdr 255 0, active.cfg.wc.vertRightScroll, 1, active.cfg.scrollVinc),
          (.scrup 255 0, active.cfg.opScrollUp, 0, active.cfg.scrollVinc)] := by decide

theorem witness_ScrollFailure_3 : (active.answering (failAt 3)).lc = .active ∧ 3 < 4 ∧
      (active.answering (failAt 3)).transport.FailsAt 3 ∧
      (Instr.scrup 255 0, active.cfg.opScrollUp, (0 : Byte), active.cfg.scrollVinc) ∈
        [(Instr.scrl 255 0, active.cfg.wc.leftScroll, 0, 0), (.scrr 255 0, active.cfg.wc.rightScroll, 0, 0),
          (.scrdl 255 0, active.cfg.wc.vertLeftScroll, 1, active.cfg.scrollVinc),
          (.scrdr 255 0, active.cfg.wc.vertRightScroll, 1, active.cfg.scrollVinc),
          (.scrup 255 0, active.cfg.opScrollUp, 0, active.cfg.scrollVinc)] := by decide

theorem witness_ScrollStop_ok : active.lc = .active ∧ active.transport.answer 0 = .ok := by decide

theorem witness_ScrollStop_fail :
    (active.answering [.fail]).lc = .active ∧ (active.answering [.fail]).transport.answer 0 = .fail := by decide

theorem witness_SystemOperationFrames :
    (∃ t, exec .startup active = .next t) ∧ (∃ t, exec .display crossing = .next t) ∧
      (∃ t, exec .shutdown active = .next t) ∧ (∃ t, exec (.endisp true) active = .next t) ∧
      (∃ t, exec (.scrup 255 0) active = .next t) ∧ ∃ t, exec .scrstop active = .next t := 
  ⟨⟨_, rfl⟩, ⟨_, rfl⟩, ⟨_, rfl⟩, ⟨_, rfl⟩, ⟨_, rfl⟩, ⟨_, rfl⟩⟩

theorem witness_ShortWireCommands : State.reset.transport.answer 0 = .ok := by decide

theorem witness_LongWireCommands : active.transport.answer 0 = .ok := by decide

theorem witness_WireCommandsKeepTheRegisters :
    (Instr.wPageAddr 0 7).isHost = false ∧ active.transport.answer 0 = .ok ∧
      (active.answering [.fail]).transport.answer 0 = .fail ∧ (active.answering [.never]).transport.answer 0 = .never := by
  decide

theorem witness_StepKeepsTheInvariant : active.Inv ∧ ∃ t, step active = .next t := ⟨active_inv, _, rfl⟩

theorem witness_ParametersNeverChange : ∃ t, step (active.present (.host 0x0140000100000000)) = .next t := ⟨_, rfl⟩

theorem witness_NothingFlowsBackFromThePanel :
    active.blockOnly = { active with panel := { Panel.unknown with display := some true } }.blockOnly ∧
      active ≠ { active with panel := { Panel.unknown with display := some true } } := ⟨rfl, by decide⟩

theorem witness_TraceAndResultsOnlyGrow :
    ∃ t, step ((active.answering [.fail]).present (.host 0x1300000000000001)) = .next t := ⟨_, rfl⟩

/-- The panel in horizontal addressing, no scroll active. -/
def known : Panel := { Panel.unknown with scrolling := some false, memoryMode := some 0 }

theorem witness_DisplayBringsThePanelInStep :
    { crossing with panel := known }.lc = .active ∧ Window.Legal crossing.cfg.geometry crossing.dw ∧
      crossing.dw.isEmpty = false ∧ crossing.cfg.wc.Decodable ∧ known.scrolling = some false ∧
      known.memoryMode = some 0 ∧ crossing.transport.AllOk (flushByRule { crossing with panel := known }).length ∧
      crossing.dw.y1.toNat / 8 ≤ 2 ∧ 2 ≤ crossing.dw.y2.toNat / 8 ∧ crossing.dw.x1 ≤ 13 ∧ (13 : Int) ≤ crossing.dw.x2 := by
  decide

theorem witness_StartupConfiguresThePanel : State.reset.lc = .uninitialized ∧ State.reset.cfg.wc.Decodable ∧
      State.reset.transport.AllOk (17 + 2 * State.reset.cfg.geometry.pages) ∧
      State.reset.cfg.wc.memoryModeValue = 0 ∧ 7 < State.reset.cfg.geometry.pages ∧ 127 < State.reset.cfg.geometry.width := by
  decide

end Sys2Proof.Tests
end

section
/-! Proofs of the scope's statements (00_scope.md): which geometries make a block, that no step changes a parameter, and
that no step reads the ghost of the panel. -/

namespace Sys2Proof.Machine

/-! ## Construction -/

/-- Inside the range a block is built, in its reset state (00_scope.md R6). -/
theorem construct_of_legal (p : Params) (w h : Int) (e : Bool) (hw : 1 ≤ w.toNat ∧ w.toNat ≤ 128)
    (hh : 1 ≤ h.toNat ∧ h.toNat ≤ 64) :
    construct p w h e = .next (State.resetWith { p with geometry := ⟨w.toNat, h.toNat, e, hw, hh⟩ }) := by
  rw [construct, dif_pos hw, dif_pos hh]

/-- Outside the range no block is built (60_exceptions.md R191). -/
theorem construct_of_illegal (p : Params) (w h : Int) (e : Bool)
    (hg : ¬ ((1 ≤ w.toNat ∧ w.toNat ≤ 128) ∧ 1 ≤ h.toNat ∧ h.toNat ≤ 64)) :
    construct p w h e = .refused .malformedGeometry := by
  unfold construct
  split
  · rename_i hw
    exact dif_neg fun hh => hg ⟨hw, hh⟩
  · rfl

/-- Settles O3: `toNat` moves the range of the integers to that of the geometry, and sends every negative value to 0,
which is outside it. -/
theorem constructRefusesMalformedGeometry : Obligations.ConstructRefusesMalformedGeometry := by
  unfold Obligations.ConstructRefusesMalformedGeometry
  intro p w h e
  constructor
  · intro hg
    exact ⟨_, construct_of_legal p w h e (by omega) (by omega), Int.toNat_of_nonneg (by omega),
      Int.toNat_of_nonneg (by omega), rfl, rfl⟩
  · intro hg
    exact construct_of_illegal p w h e (by omega)

/-! ## The parameters -/

/-- The state a stretch of transactions ended in. -/
def Io.state : Io → State
  | .done s | .failed s | .waiting s => s

@[simp] theorem Io.finish_cfg (r : Io) : r.finish.cfg = r.state.cfg := by cases r <;> rfl

theorem Io.map_cfg (r : Io) {f : State → State} (hf : ∀ u, (f u).cfg = u.cfg) :
    (r.map f).state.cfg = r.state.cfg := by
  cases r with
  | done u => exact hf u
  | failed u => rfl
  | waiting u => rfl

@[simp] theorem State.emit_cfg (s : State) (t : Txn) : (s.emit t).state.cfg = s.cfg := by
  rw [State.emit_eq]
  cases s.transport.answer 0 <;> rfl

@[simp] theorem emitAll_cfg (ts : List Txn) (s : State) : (emitAll ts s).state.cfg = s.cfg := by
  rcases emitAll_cases ts s with e | ⟨_, _, _, _, e⟩ | ⟨_, _, _, _, e⟩ <;> rw [e] <;> rfl

@[simp] theorem State.flush_cfg (s : State) : s.flush.state.cfg = s.cfg := by
  rcases s.flush_cases with ⟨_, e⟩ | ⟨_, e | ⟨_, _, _, _, _, e⟩ | ⟨_, _, _, _, _, e⟩⟩ <;> rw [e] <;> rfl

@[simp] theorem State.flushed_cfg (s : State) : s.flushed.cfg = s.cfg := s.configured_cfg

@[simp] theorem State.startupBody_cfg (s : State) : s.startupBody.state.cfg = s.cfg := by
  rcases s.startupBody_cases with e | ⟨_, _, _, _, e | e⟩ | ⟨_, _, _, _, _, e | e⟩ | e | e <;> rw [e]
  · exact s.flushed_cfg
  · rfl
  · rfl
  · exact s.configured_cfg
  · exact s.configured_cfg
  · exact s.flushed_cfg
  · exact s.flushed_cfg

@[simp] theorem State.drawRun_cfg (s : State) (k : RunKind) (x y len : Int) (c : Colour) :
    (s.drawRun k x y len c).cfg = s.cfg := by
  obtain ⟨_, _, e⟩ := s.drawRun_frame k x y len c
  rw [e]

theorem State.whenLc_cfg (need : Lifecycle) {body : State → State} {s : State} (h : (body s).cfg = s.cfg) :
    (s.whenLc need body).cfg = s.cfg := by
  rcases s.whenLc_cases need body with ⟨_, e⟩ | ⟨_, e⟩ <;> rw [e]
  · rfl
  · exact h

@[simp] theorem State.issueWire_cfg (s : State) (i : Instr) : (s.issueWire i).cfg = s.cfg := by simp [State.issueWire]

@[simp] theorem State.startScroll_cfg (s : State) (d hi v a b : Byte) : (s.startScroll d hi v a b).cfg = s.cfg :=
  State.whenLc_cfg _ (by simp)

/-- No instruction changes a parameter. -/
theorem exec_cfg {i : Instr} {s t : State} (h : exec i s = .next t) : t.cfg = s.cfg := by
  cases i
  case hrun c len y x => cases h; exact State.whenLc_cfg _ (by simp)
  case vrun c len y x => cases h; exact State.whenLc_cfg _ (by simp)
  case setrot q => cases h; rfl
  case startup => cases h; exact State.whenLc_cfg _ (by simp)
  case display =>
    rcases execDisplay_cases s with ⟨_, e⟩ | ⟨_, _, e⟩ | ⟨_, _, e⟩ <;> simp only [exec, e] at h <;> cases h
    · rfl
    · simp
  case shutdown =>
    cases h
    refine State.whenLc_cfg _ ?_
    rw [Io.finish_cfg]
    exact (Io.map_cfg (f := fun u => { u with lc := .stopped }) _ fun _ => rfl).trans (emitAll_cfg _ _)
  case scrstop =>
    cases h
    refine State.whenLc_cfg _ ?_
    rw [State.emit_eq]
    cases s.transport.answer 0 <;> rfl
  case endisp b => cases h; exact State.whenLc_cfg _ (s.issueWire_cfg _)
  case invdisp b => cases h; exact State.whenLc_cfg _ (s.issueWire_cfg _)
  case scrl a b => cases h; exact s.startScroll_cfg _ _ _ _ _
  case scrr a b => cases h; exact s.startScroll_cfg _ _ _ _ _
  case scrdl a b => cases h; exact s.startScroll_cfg _ _ _ _ _
  case scrdr a b => cases h; exact s.startScroll_cfg _ _ _ _ _
  case scrup a b => cases h; exact s.startScroll_cfg _ _ _ _ _
  all_goals cases h; exact s.issueWire_cfg _

/-- No step changes a parameter. -/
theorem step_cfg {s t : State} (h : step s = .next t) : t.cfg = s.cfg := by
  rcases s.fetch_cases with ⟨_, _, e⟩ | ⟨_, e⟩ | ⟨_, _, e⟩ | ⟨_, _, _, _, _, _, e⟩ | ⟨_, _, _, _, _, _, e⟩ |
    ⟨_, _, _, _, _, _, e⟩ <;> rw [step, e] at h
  · cases h; rfl
  · cases h
  · cases h; rfl
  · cases h; rfl
  · exact (exec_cfg h).trans rfl
  · cases h

/-- Settles O56: every instruction keeps `cfg`, and so does what a step does besides running one. -/
theorem parametersNeverChange : Obligations.ParametersNeverChange := by
  unfold Obligations.ParametersNeverChange
  exact fun _ _ => step_cfg

/-! ## The ghost of the panel -/

@[simp] theorem State.blockOnly_cfg (s : State) : s.blockOnly.cfg = s.cfg := rfl
@[simp] theorem State.blockOnly_dw (s : State) : s.blockOnly.dw = s.dw := rfl
@[simp] theorem State.blockOnly_lc (s : State) : s.blockOnly.lc = s.lc := rfl
@[simp] theorem State.blockOnly_opReady (s : State) : s.blockOnly.opReady = s.opReady := rfl
@[simp] theorem State.blockOnly_inputs (s : State) : s.blockOnly.inputs = s.inputs := rfl
@[simp] theorem State.blockOnly_transport (s : State) : s.blockOnly.transport = s.transport := rfl

/-- What a step finds, with the panel left out of the state. -/
def Fetched.blockOnly : Fetched → Fetched
  | .idle => .idle
  | .stuck => .stuck
  | .reset s => .reset s.blockOnly
  | .illegal s => .illegal s.blockOnly
  | .run i s => .run i s.blockOnly
  | .noCommand => .noCommand

/-- How a stretch of transactions ended, with the panel left out of the state. -/
def Io.blockOnly : Io → Io
  | .done s => .done s.blockOnly
  | .failed s => .failed s.blockOnly
  | .waiting s => .waiting s.blockOnly

/-- What `f` does to the block does not depend on the ghost of the panel. -/
def IgnoresPanel (f : State → State) : Prop := ∀ s, (f s.blockOnly).blockOnly = (f s).blockOnly

/-- What `f` does to the block, and how it ends, does not depend on the ghost of the panel. -/
def IoIgnoresPanel (f : State → Io) : Prop := ∀ s, (f s.blockOnly).blockOnly = (f s).blockOnly

theorem IgnoresPanel.comp {g f : State → State} (hg : IgnoresPanel g) (hf : IgnoresPanel f) :
    IgnoresPanel fun s => g (f s) := fun s => by
  rw [← hg (f s.blockOnly), hf s, hg (f s)]

theorem IoIgnoresPanel.comp {g : State → Io} {f : State → State} (hg : IoIgnoresPanel g) (hf : IgnoresPanel f) :
    IoIgnoresPanel fun s => g (f s) := fun s => by
  rw [← hg (f s.blockOnly), hf s, hg (f s)]

theorem Io.blockOnly_bind (r : Io) {g : State → Io} (hg : IoIgnoresPanel g) :
    (r.blockOnly.bind g).blockOnly = (r.bind g).blockOnly := by
  cases r with
  | done u => exact hg u
  | failed u => rfl
  | waiting u => rfl

theorem Io.blockOnly_map (r : Io) {g : State → State} (hg : IgnoresPanel g) :
    (r.blockOnly.map g).blockOnly = (r.map g).blockOnly := by
  cases r with
  | done u => exact congrArg Io.done (hg u)
  | failed u => rfl
  | waiting u => rfl

theorem Io.blockOnly_finish (r : Io) : r.blockOnly.finish.blockOnly = r.finish.blockOnly := by cases r <;> rfl

theorem IoIgnoresPanel.bind {f g : State → Io} (hf : IoIgnoresPanel f) (hg : IoIgnoresPanel g) :
    IoIgnoresPanel fun s => (f s).bind g := fun s => by
  rw [← Io.blockOnly_bind _ hg, hf s, Io.blockOnly_bind _ hg]

theorem IoIgnoresPanel.map {f : State → Io} {g : State → State} (hf : IoIgnoresPanel f) (hg : IgnoresPanel g) :
    IoIgnoresPanel fun s => (f s).map g := fun s => by
  rw [← Io.blockOnly_map _ hg, hf s, Io.blockOnly_map _ hg]

theorem IoIgnoresPanel.finish {f : State → Io} (hf : IoIgnoresPanel f) : IgnoresPanel fun s => (f s).finish :=
  fun s => by rw [← Io.blockOnly_finish, hf s, Io.blockOnly_finish]

theorem IgnoresPanel.deliver (r : ResultCode) : IgnoresPanel (State.deliver r) := fun _ => rfl

theorem IgnoresPanel.whenLc (need : Lifecycle) {body : State → State} (hb : IgnoresPanel body) :
    IgnoresPanel (State.whenLc need body) := fun s => by
  unfold State.whenLc
  rw [State.blockOnly_lc]
  split
  · exact hb s
  · rfl

/-! ### Transactions -/

/-- The ghost of the panel follows a transaction; neither the transaction nor its answer follows the ghost. -/
theorem IoIgnoresPanel.emit (t : Txn) : IoIgnoresPanel (State.emit t) := fun s => by
  rw [State.emit_eq, State.emit_eq, State.blockOnly_transport]
  cases s.transport.answer 0 <;> rfl

theorem IoIgnoresPanel.emitAll (ts : List Txn) : IoIgnoresPanel (emitAll ts) := by
  induction ts with
  | nil => exact fun _ => rfl
  | cons t ts ih => exact (IoIgnoresPanel.emit t).bind ih

theorem IgnoresPanel.issueWire (i : Instr) : IgnoresPanel (State.issueWire i) := fun s =>
  (IoIgnoresPanel.emit (wireTxn s.cfg.wc i)).finish s

theorem IoIgnoresPanel.emitPages (w : Window) (pages : List Nat) : IoIgnoresPanel (emitPages w pages) := by
  induction pages with
  | nil => exact fun _ => rfl
  | cons pg rest ih =>
    exact fun s => (((IoIgnoresPanel.emitAll (pageTxns s.cfg s.fb w pg)).comp (f := State.atPage pg)
      fun _ => rfl).bind ih) s

theorem IoIgnoresPanel.flush : IoIgnoresPanel State.flush := fun s => by
  unfold State.flush
  rw [State.blockOnly_dw]
  split
  · rfl
  · exact (IoIgnoresPanel.emitPages s.dw s.dw.pages).map (fun _ => rfl) s

/-! ### Drawing -/

theorem IgnoresPanel.runPrim (k : RunKind) (x y len : Int) (c : Colour) : IgnoresPanel (State.runPrim k x y len c) := by
  intro s
  cases k
  · simp only [State.runPrim, State.fbHrun, apply_ite State.blockOnly]
    rfl
  · simp only [State.runPrim, State.fbVrun, apply_ite State.blockOnly]
    rfl

theorem IgnoresPanel.drawRun (k : RunKind) (x y len : Int) (c : Colour) : IgnoresPanel (State.drawRun k x y len c) :=
  fun s => IgnoresPanel.runPrim _ _ _ len c s

theorem IgnoresPanel.runCalls (cs : List PrimCall) : IgnoresPanel (State.runCalls cs) := by
  induction cs with
  | nil => exact fun _ => rfl
  | cons c cs ih => exact ih.comp (IgnoresPanel.runPrim c.kind c.x c.y c.length c.colour)

theorem IgnoresPanel.applySplash : IgnoresPanel State.applySplash := fun s => IgnoresPanel.runCalls s.cfg.splash s

/-! ### Operations -/

theorem IoIgnoresPanel.startupBody : IoIgnoresPanel State.startupBody := fun s => by
  have hon : IoIgnoresPanel fun u => u.emit (wireTxn u.cfg.wc .wDisplayOn) := fun u =>
    IoIgnoresPanel.emit (wireTxn u.cfg.wc .wDisplayOn) u
  have hmark : IgnoresPanel fun u => u.applySplash.markFull :=
    IgnoresPanel.comp (g := State.markFull) (fun _ => rfl) IgnoresPanel.applySplash
  have hbegin := (IoIgnoresPanel.emitAll (startupTxns s.cfg (panelConfig s.cfg))).comp (f := State.begun) fun _ => rfl
  exact ((hbegin.bind ((IoIgnoresPanel.flush.comp hmark).bind hon)).map fun _ => rfl) s

theorem IgnoresPanel.startScroll (d hi v a b : Byte) : IgnoresPanel (State.startScroll d hi v a b) :=
  IgnoresPanel.whenLc _ fun s => (IoIgnoresPanel.emitAll (scrollTxns s.cfg d hi v a b)).finish s

/-- An operation that always answers a next state. -/
theorem IgnoresPanel.outcome {f : State → State} (hf : IgnoresPanel f) (s : State) :
    outcomeBlock (.next (f s.blockOnly)) = outcomeBlock (.next (f s)) :=
  congrArg Host.Outcome.next (hf s)

theorem outcomeBlock_execDisplay (s : State) :
    outcomeBlock (execDisplay s.blockOnly) = outcomeBlock (execDisplay s) := by
  unfold execDisplay
  rw [State.blockOnly_lc, State.blockOnly_dw, State.blockOnly_cfg]
  split
  · rfl
  · exact (IgnoresPanel.whenLc .active IoIgnoresPanel.flush.finish).outcome s

theorem outcomeBlock_execShutdown (s : State) :
    outcomeBlock (execShutdown s.blockOnly) = outcomeBlock (execShutdown s) := by
  refine (IgnoresPanel.whenLc .active fun u => ?_).outcome s
  have hsend := (IoIgnoresPanel.emitAll (shutdownTxns u.cfg.wc)).comp (f := fun v => { v with lc := .shuttingDown })
    fun _ => rfl
  exact (hsend.map (g := fun v => { v with lc := .stopped }) fun _ => rfl).finish u

theorem outcomeBlock_execScrstop (s : State) :
    outcomeBlock (execScrstop s.blockOnly) = outcomeBlock (execScrstop s) := by
  refine (IgnoresPanel.whenLc .active fun u => ?_).outcome s
  rw [State.emit_eq, State.emit_eq, State.blockOnly_transport]
  cases u.transport.answer 0 <;> rfl

/-- What an instruction does to the block does not depend on the ghost of the panel. -/
theorem outcomeBlock_exec (i : Instr) (s : State) : outcomeBlock (exec i s.blockOnly) = outcomeBlock (exec i s) := by
  cases i
  case hrun c len y x =>
    exact (IgnoresPanel.whenLc _ ((IgnoresPanel.deliver .ok).comp (.drawRun .horizontal x y len c))).outcome s
  case vrun c len y x =>
    exact (IgnoresPanel.whenLc _ ((IgnoresPanel.deliver .ok).comp (.drawRun .vertical x y len c))).outcome s
  case setrot q => rfl
  case startup => exact (IgnoresPanel.whenLc _ IoIgnoresPanel.startupBody.finish).outcome s
  case display => exact outcomeBlock_execDisplay s
  case shutdown => exact outcomeBlock_execShutdown s
  case scrstop => exact outcomeBlock_execScrstop s
  case endisp b => exact (IgnoresPanel.whenLc _ (.issueWire _)).outcome s
  case invdisp b => exact (IgnoresPanel.whenLc _ (.issueWire _)).outcome s
  case scrl a b => exact (IgnoresPanel.startScroll _ _ _ _ _).outcome s
  case scrr a b => exact (IgnoresPanel.startScroll _ _ _ _ _).outcome s
  case scrdl a b => exact (IgnoresPanel.startScroll _ _ _ _ _).outcome s
  case scrdr a b => exact (IgnoresPanel.startScroll _ _ _ _ _).outcome s
  case scrup a b => exact (IgnoresPanel.startScroll _ _ _ _ _).outcome s
  all_goals exact (IgnoresPanel.issueWire _).outcome s

/-! ### The step -/

/-- What a step finds does not depend on the ghost of the panel. -/
theorem State.fetch_blockOnly (s : State) : s.blockOnly.fetch = s.fetch.blockOnly := by
  unfold State.fetch
  rw [State.blockOnly_inputs, State.blockOnly_opReady, State.blockOnly_cfg]
  cases s.inputs with
  | nil => cases s.opReady <;> rfl
  | cons x rest =>
    cases x with
    | rst => rfl
    | word w =>
      cases s.opReady with
      | false => rfl
      | true =>
        dsimp only
        generalize decode s.cfg w = d
        cases d with
        | ok i => rfl
        | error e => cases w <;> rfl

/-- What a step does to the block does not depend on the ghost of the panel. -/
theorem outcomeBlock_step (s : State) : outcomeBlock (step s.blockOnly) = outcomeBlock (step s) := by
  unfold step
  rw [State.fetch_blockOnly]
  cases s.fetch with
  | run i u => exact outcomeBlock_exec i u
  | _ => rfl

/-- Settles O57: a step from a state does to the block what it does with nothing known of the panel, and two states that
agree on everything but the panel agree there. -/
theorem nothingFlowsBackFromThePanel : Obligations.NothingFlowsBackFromThePanel := by
  unfold Obligations.NothingFlowsBackFromThePanel
  intro s s' h
  rw [← outcomeBlock_step s, h, outcomeBlock_step s']

end Sys2Proof.Machine
end

section
/-! Proofs of the statements on the state (10_state.md): the reset table, the step of a decoded word, and that the
invariant holds after reset and every step keeps it. -/

namespace Sys2Proof

/-! ## What a decoded word carries -/

theorem decodeD_ok {mk : Colour → Int → Int → Int → Instr} {w : OpWord} {i : Instr} (h : decodeD mk w = .ok i) :
    ∃ c, ∃ len y x : BitVec 16, i = mk c (decodeOperand len) (decodeOperand y) (decodeOperand x) := by
  unfold decodeD at h
  split at h
  · cases h
  · split at h <;> cases h
    exact ⟨_, _, _, _, rfl⟩

theorem decodeR_ok {mk : Rotation → Instr} {w : OpWord} {i : Instr} (h : decodeR mk w = .ok i) : ∃ q, i = mk q := by
  unfold decodeR at h
  split at h <;> cases h
  exact ⟨_, rfl⟩

theorem decodeB_ok {mk : Bool → Instr} {w : OpWord} {i : Instr} (h : decodeB mk w = .ok i) : ∃ b, i = mk b := by
  unfold decodeB at h
  split at h <;> cases h
  exact ⟨_, rfl⟩

theorem decodeS_ok {mk : Byte → Byte → Instr} {w : OpWord} {i : Instr} (h : decodeS mk w = .ok i) :
    ∃ stop start, i = mk stop start := by
  unfold decodeS at h
  split at h <;> cases h
  exact ⟨_, _, rfl⟩

theorem decodeN_ok {j : Instr} {w : OpWord} {i : Instr} (h : decodeN j w = .ok i) : i = j := by
  unfold decodeN at h
  split at h <;> cases h
  rfl

/-- The operands of a run, read from their fields, fit them (30_encoding.md R61). -/
theorem wellFormed_of_decodeD {mk : Colour → Int → Int → Int → Instr} {w : OpWord} {i : Instr}
    (hmk : ∀ c len y x, (mk c len y x).wellFormed = (fitsSigned 16 len && fitsSigned 16 y && fitsSigned 16 x))
    (h : decodeD mk w = .ok i) : i.wellFormed = true := by
  obtain ⟨c, len, y, x, rfl⟩ := decodeD_ok h
  simp [hmk, fitsSigned_decodeOperand]

/-- A host word decodes to an instruction its fields can carry (30_encoding.md R56 to R61). -/
theorem decodeHost_wellFormed {w : OpWord} {i : Instr} (h : decodeHost w = .ok i) : i.wellFormed = true := by
  unfold decodeHost at h
  split at h
  · exact wellFormed_of_decodeD (fun _ _ _ _ => rfl) h
  · exact wellFormed_of_decodeD (fun _ _ _ _ => rfl) h
  · obtain ⟨_, rfl⟩ := decodeR_ok h; rfl
  · obtain rfl := decodeN_ok h; rfl
  · obtain rfl := decodeN_ok h; rfl
  · obtain rfl := decodeN_ok h; rfl
  · obtain ⟨_, rfl⟩ := decodeB_ok h; rfl
  · obtain ⟨_, rfl⟩ := decodeB_ok h; rfl
  · obtain ⟨_, _, rfl⟩ := decodeS_ok h; rfl
  · obtain ⟨_, _, rfl⟩ := decodeS_ok h; rfl
  · obtain ⟨_, _, rfl⟩ := decodeS_ok h; rfl
  · obtain ⟨_, _, rfl⟩ := decodeS_ok h; rfl
  · obtain ⟨_, _, rfl⟩ := decodeS_ok h; rfl
  · obtain rfl := decodeN_ok h; rfl
  · cases h

/-- What is read from the front of a list of bytes is a wire command, if anything is. -/
def ReadsWire (r : Except DecodeError (Instr × List Byte)) : Prop := ∀ i rest, r = .ok (i, rest) → i.isHost = false

namespace ReadsWire

theorem wire0 {i : Instr} {rest : List Byte} (hi : i.isHost = false) : ReadsWire (wire0 i rest) := by
  rintro _ _ ⟨⟩
  exact hi

theorem wire1 {mk : Byte → Instr} {bs : List Byte} (hmk : ∀ a, (mk a).isHost = false) :
    ReadsWire (wire1 mk bs) := by
  intro i rest h
  unfold Sys2Proof.wire1 at h
  split at h <;> cases h
  exact hmk _

theorem wire2 {mk : Byte → Byte → Instr} {bs : List Byte} (hmk : ∀ a b, (mk a b).isHost = false) :
    ReadsWire (wire2 mk bs) := by
  intro i rest h
  unfold Sys2Proof.wire2 at h
  split at h <;> cases h
  exact hmk _ _

theorem wire7 {mk : Byte → Byte → Byte → Byte → Byte → Byte → Byte → Instr} {bs : List Byte}
    (hmk : ∀ a b c d e f g, (mk a b c d e f g).isHost = false) : ReadsWire (wire7 mk bs) := by
  intro i rest h
  unfold Sys2Proof.wire7 at h
  split at h <;> cases h
  exact hmk _ _ _ _ _ _ _

theorem error {e : DecodeError} : ReadsWire (.error e) := nofun

theorem ite {c : Prop} [Decidable c] {a b : Except DecodeError (Instr × List Byte)} (ha : ReadsWire a)
    (hb : ReadsWire b) : ReadsWire (if c then a else b) := by
  split
  · exact ha
  · exact hb

end ReadsWire

/-- The chain of codes yields wire commands alone, code by code (30_encoding.md R74 to R99). -/
theorem decodeWire_readsWire (wc : WireCodes) (bs : List Byte) : ReadsWire (decodeWire wc bs) := by
  cases bs with
  | nil => exact .error
  | cons k rest =>
    exact
      .ite (.wire0 rfl) <| .ite (.wire0 rfl) <| .ite (.wire1 fun _ => rfl) <| .ite (.wire1 fun _ => rfl) <|
      .ite (.wire1 fun _ => rfl) <| .ite (.wire0 rfl) <| .ite (.wire0 rfl) <| .ite (.wire1 fun _ => rfl) <|
      .ite (.wire1 fun _ => rfl) <| .ite (.wire1 fun _ => rfl) <| .ite (.wire1 fun _ => rfl) <|
      .ite (.wire1 fun _ => rfl) <| .ite (.wire1 fun _ => rfl) <| .ite (.wire0 rfl) <| .ite (.wire0 rfl) <|
      .ite (.wire0 rfl) <| .ite (.wire0 rfl) <| .ite (.wire0 rfl) <| .ite (.wire2 fun _ _ => rfl) <|
      .ite (.wire7 fun _ _ _ _ _ _ _ => rfl) <| .ite (.wire7 fun _ _ _ _ _ _ _ => rfl) <|
      .ite (.wire7 fun _ _ _ _ _ _ _ => rfl) <| .ite (.wire7 fun _ _ _ _ _ _ _ => rfl) <|
      .ite (.wire2 fun _ _ => rfl) <| .ite (.wire2 fun _ _ => rfl) <| .ite (.wire0 rfl) .error

theorem decodeWireWord_isHost {wc : WireCodes} {bs : List Byte} {i : Instr} (h : decodeWireWord wc bs = .ok i) :
    i.isHost = false := by
  unfold decodeWireWord at h
  split at h <;> cases h
  exact decodeWire_readsWire wc bs _ _ ‹_›

/-- A wire command's operands are bytes: nothing in it can fail to fit a latch. -/
theorem Instr.fits_of_wire {i : Instr} (h : i.isHost = false) (n : Nat) : i.fits n = true := by
  cases i
  case hrun => cases h
  case vrun => cases h
  all_goals rfl

/-- What a word decodes to fits the operand latches, whatever COORD_W is (10_state.md R20). -/
theorem decode_fits {p : Params} {w : InstrWord} {i : Instr} (h : decode p w = .ok i) : i.fits p.coordW = true := by
  cases w with
  | host w => exact Instr.fits_coordW p (decodeHost_wellFormed h)
  | wire bs => exact Instr.fits_of_wire (decodeWireWord_isHost h) _

namespace Machine

/-! ## The registers at every point of an operation -/

/-- What the invariant says of the registers that outlive an operation. It holds between two transactions as well as at
a boundary, where `State.Inv` adds what the ports show. -/
structure RegsInv (p : Params) (fb : Memory) (dw : Window) (lc : Lifecycle) (pcfg : Option PanelConfig) : Prop where
  fb_wf : Memory.wf p.geometry.fbSize (fbDefault p) fb = true
  dw_legal : Window.Legal p.geometry dw
  pcfg_fixed : pcfg = none ∨ pcfg = some (panelConfig p)
  pcfg_unwritten : pcfg = none ↔ lc = .uninitialized
  uninit_clean : lc = .uninitialized → dw = Window.sentinel p.geometry ∧ fb = []

namespace RegsInv

variable {p : Params} {fb : Memory} {dw : Window} {lc : Lifecycle} {pcfg : Option PanelConfig}

/-- The registers after reset (10_state.md R33). -/
theorem reset (p : Params) : RegsInv p [] (Window.sentinel p.geometry) .uninitialized none :=
  ⟨rfl, .inl rfl, .inl rfl, by simp, fun _ => ⟨rfl, rfl⟩⟩

/-- STARTUP begins: PCFG is computed as `Uninitialized` is left (43_sequencer.md R134). -/
theorem begin (h : RegsInv p fb dw lc pcfg) : RegsInv p fb dw .starting (some (panelConfig p)) :=
  ⟨h.fb_wf, h.dw_legal, .inr rfl, by simp, nofun⟩

/-- A later transition of the lifecycle keeps PCFG (R19). -/
theorem transition (h : RegsInv p fb dw lc pcfg) (hlc : lc ≠ .uninitialized) {lc' : Lifecycle}
    (hlc' : lc' ≠ .uninitialized) : RegsInv p fb dw lc' pcfg :=
  ⟨h.fb_wf, h.dw_legal, h.pcfg_fixed, by simp [h.pcfg_unwritten, hlc, hlc'], fun e => absurd e hlc'⟩

/-- FB and DW are free to change once `Uninitialized` is left. -/
theorem draw (h : RegsInv p fb dw lc pcfg) (hlc : lc ≠ .uninitialized) {fb' : Memory} {dw' : Window}
    (hfb : Memory.wf p.geometry.fbSize (fbDefault p) fb' = true) (hdw : Window.Legal p.geometry dw') :
    RegsInv p fb' dw' lc pcfg :=
  ⟨hfb, hdw, h.pcfg_fixed, h.pcfg_unwritten, fun e => absurd e hlc⟩

/-- DW_RESET, in every lifecycle state. -/
theorem resetWindow (h : RegsInv p fb dw lc pcfg) : RegsInv p fb (Window.sentinel p.geometry) lc pcfg :=
  ⟨h.fb_wf, .inl rfl, h.pcfg_fixed, h.pcfg_unwritten, fun e => ⟨rfl, (h.uninit_clean e).2⟩⟩

end RegsInv

theorem State.Inv.regs {s : State} (h : s.Inv) : RegsInv s.cfg s.fb s.dw s.lc s.pcfg :=
  ⟨h.fb_wf, h.dw_legal, h.pcfg_fixed, h.pcfg_unwritten, h.uninit_clean⟩

/-- At a boundary the invariant is that of the registers, with idle ports (10_state.md R21, R29). -/
theorem RegsInv.inv_of_idle {s : State} (h : RegsInv s.cfg s.fb s.dw s.lc s.pcfg) (hr : s.opReady = true)
    (hq : s.seq = .idle) (hb : s.bus = none) (hl : s.latch = none) : s.Inv where
  fb_wf := h.fb_wf
  dw_legal := h.dw_legal
  ready_idle _ := ⟨hq, hb, hl⟩
  busy_waits e := by rw [hr] at e; cases e
  latch_fits i e := by rw [hl] at e; cases e
  dw_fits := Window.fits_of_legal h.dw_legal
  pcfg_fixed := h.pcfg_fixed
  pcfg_unwritten := h.pcfg_unwritten
  uninit_clean := h.uninit_clean

/-- Ending an operation meets the invariant, whatever its result (60_exceptions.md R171 to R173). -/
theorem RegsInv.deliver_inv {s : State} (h : RegsInv s.cfg s.fb s.dw s.lc s.pcfg) (r : ResultCode) :
    (s.deliver r).Inv :=
  inv_of_idle (s := s.deliver r) h rfl rfl rfl rfl

/-- An operation is in progress in the lifecycle state `lc`: the registers are sound and its operands latched. -/
structure State.Running (lc : Lifecycle) (s : State) : Prop where
  lc_eq : s.lc = lc
  regs : RegsInv s.cfg s.fb s.dw s.lc s.pcfg
  latched : ∃ i, s.latch = some i ∧ i.fits s.cfg.coordW = true

/-- A stretch of transactions leaves the operation in progress, in `lc` where all were answered `ok`; where one is not
answered, the block waits with the invariant met (10_state.md R30, R31). -/
def Io.Running (lc : Lifecycle) : Io → Prop
  | .done s => s.Running lc
  | .failed s => ∃ l, s.Running l
  | .waiting s => s.Inv

/-! ## Going on and ending -/

theorem Io.Running.bind {l m : Lifecycle} {r : Io} {f : State → Io} (h : r.Running l)
    (hf : ∀ u : State, u.Running l → (f u).Running m) : (r.bind f).Running m := by
  cases r with
  | done u => exact hf u h
  | failed u => exact h
  | waiting u => exact h

theorem Io.Running.map {l m : Lifecycle} {r : Io} {f : State → State} (h : r.Running l)
    (hf : ∀ u : State, u.Running l → (f u).Running m) : (r.map f).Running m := by
  cases r with
  | done u => exact hf u h
  | failed u => exact h
  | waiting u => exact h

theorem Io.Running.finish_inv {l : Lifecycle} {r : Io} (h : r.Running l) : r.finish.Inv := by
  cases r with
  | done u => exact h.regs.deliver_inv .ok
  | failed u => obtain ⟨_, hu⟩ := h; exact hu.regs.deliver_inv .eTransport
  | waiting u => exact h

namespace State.Running

variable {l : Lifecycle} {s : State}

/-- The lifecycle check: refused with E_USAGE, or the body from the state the operation needs. -/
theorem whenLc_inv (h : s.Running l) (need : Lifecycle) {body : State → State}
    (hb : s.Running need → (body s).Inv) : (s.whenLc need body).Inv := by
  rcases s.whenLc_cases need body with ⟨_, e⟩ | ⟨hl, e⟩ <;> rw [e]
  · exact h.regs.deliver_inv .eUsage
  · exact hb ⟨hl, h.regs, h.latched⟩

/-! ## Transactions -/

theorem sent (h : s.Running l) (ts : List Txn) : (s.sent ts).Running l := ⟨h.lc_eq, h.regs, h.latched⟩

theorem sentFailed (h : s.Running l) (t : Txn) : (s.sentFailed t).Running l := ⟨h.lc_eq, h.regs, h.latched⟩

theorem atPage (h : s.Running l) (pg : Nat) : (s.atPage pg).Running l := ⟨h.lc_eq, h.regs, h.latched⟩

theorem resetWindow (h : s.Running l) : s.resetWindow.Running l := ⟨h.lc_eq, h.regs.resetWindow, h.latched⟩

/-- Waiting for an answer meets the invariant: the transaction pends, no result stands, the operands stay latched. -/
theorem sentUnanswered_inv (h : s.Running l) (t : Txn) : (s.sentUnanswered t).Inv where
  fb_wf := h.regs.fb_wf
  dw_legal := h.regs.dw_legal
  ready_idle := nofun
  busy_waits _ := by
    obtain ⟨i, hi, _⟩ := h.latched
    exact ⟨nofun, by simp [hi], rfl⟩
  latch_fits j hj := by
    obtain ⟨i, hi, hf⟩ := h.latched
    cases hi.symm.trans hj
    exact hf
  dw_fits := Window.fits_of_legal h.regs.dw_legal
  pcfg_fixed := h.regs.pcfg_fixed
  pcfg_unwritten := h.regs.pcfg_unwritten
  uninit_clean := h.regs.uninit_clean

theorem emit (h : s.Running l) (t : Txn) : (s.emit t).Running l := by
  rw [State.emit_eq]
  cases s.transport.answer 0 with
  | ok => exact h.sent [t]
  | fail => exact ⟨l, h.sentFailed t⟩
  | never => exact h.sentUnanswered_inv t

theorem emitAll (h : s.Running l) (ts : List Txn) : (emitAll ts s).Running l := by
  induction ts generalizing s with
  | nil => exact h
  | cons t ts ih => exact (h.emit t).bind fun _ hu => ih hu

theorem issueWire_inv (h : s.Running l) (i : Instr) : (s.issueWire i).Inv := (h.emit _).finish_inv

theorem emitPages (h : s.Running l) (w : Window) (pages : List Nat) : (emitPages w pages s).Running l := by
  induction pages generalizing s with
  | nil => exact h
  | cons pg pages ih => exact ((h.atPage pg).emitAll _).bind fun _ hu => ih hu

theorem flush (h : s.Running l) : s.flush.Running l := by
  unfold State.flush
  split
  · exact h
  · exact (h.emitPages _ _).map fun _ hu => (hu.atPage 0).resetWindow

/-! ## Drawing and the lifecycle -/

theorem transition (h : s.Running l) (hl : l ≠ .uninitialized) {m : Lifecycle} (hm : m ≠ .uninitialized) :
    { s with lc := m }.Running m :=
  ⟨rfl, h.regs.transition (h.lc_eq ▸ hl) hm, h.latched⟩

theorem markFull (h : s.Running l) (hl : l ≠ .uninitialized) : s.markFull.Running l :=
  ⟨h.lc_eq, h.regs.draw (h.lc_eq ▸ hl) h.regs.fb_wf (Window.full_legal _), h.latched⟩

theorem runPrim (h : s.Running l) (hl : l ≠ .uninitialized) (k : RunKind) (x y len : Int) (c : Colour) :
    (s.runPrim k x y len c).Running l := by
  obtain ⟨hfb, hdw⟩ := State.runPrim_keeps h.regs.fb_wf h.regs.dw_legal k x y len c
  obtain ⟨fb, dw, e⟩ := s.runPrim_frame k x y len c
  rw [e] at hfb hdw ⊢
  exact ⟨h.lc_eq, h.regs.draw (h.lc_eq ▸ hl) hfb hdw, h.latched⟩

theorem applySplash (h : s.Running l) (hl : l ≠ .uninitialized) : s.applySplash.Running l := by
  unfold State.applySplash
  generalize s.cfg.splash = cs
  induction cs generalizing s with
  | nil => exact h
  | cons c cs ih => exact ih (h.runPrim hl _ _ _ _ _)

/-! ## Operations -/

/-- STARTUP (43_sequencer.md R134): PCFG is written before the first transaction, so the rest is free to draw. -/
theorem startupBody (h : s.Running l) : s.startupBody.Running .active := by
  have hb : s.begun.Running .starting := ⟨rfl, h.regs.begin, h.latched⟩
  refine ((hb.emitAll _).bind fun u hu => ?_).map fun u hu => hu.transition (l := .starting) nofun nofun
  exact ((hu.applySplash nofun).markFull nofun).flush.bind fun v hv => hv.emit _

theorem startScroll_inv (h : s.Running l) (d hi v a b : Byte) : (s.startScroll d hi v a b).Inv :=
  h.whenLc_inv .active fun ha => (ha.emitAll _).finish_inv

theorem execScrstop_inv {t : State} (h : s.Running l) (e : execScrstop s = .next t) : t.Inv := by
  cases e
  refine h.whenLc_inv .active fun ha => ?_
  rw [State.emit_eq]
  cases s.transport.answer 0 with
  | ok => exact ((ha.sent _).markFull nofun).regs.deliver_inv .ok
  | fail => exact ((ha.sentFailed _).markFull nofun).regs.deliver_inv .eTransport
  | never => exact ha.sentUnanswered_inv _

theorem execDisplay_inv {t : State} (h : s.Running l) (e : execDisplay s = .next t) : t.Inv := by
  rcases execDisplay_cases s with ⟨_, e'⟩ | ⟨_, _, e'⟩ | ⟨_, _, e'⟩ <;> rw [e'] at e <;> cases e
  · exact h.regs.deliver_inv .eUsage
  · exact h.flush.finish_inv

theorem execShutdown_inv {t : State} (h : s.Running l) (e : execShutdown s = .next t) : t.Inv := by
  cases e
  refine h.whenLc_inv .active fun ha => ?_
  have hd := ha.transition nofun (m := .shuttingDown) nofun
  exact ((hd.emitAll _).map fun u hu => hu.transition nofun (m := .stopped) nofun).finish_inv

/-- Every instruction, run from a state in which the host port has taken it, meets the invariant. -/
theorem exec_inv {i : Instr} {t : State} (h : s.Running l) (e : exec i s = .next t) : t.Inv := by
  cases i
  case hrun c len y x => cases e; exact h.whenLc_inv .active fun ha => (ha.runPrim nofun _ _ _ _ _).regs.deliver_inv .ok
  case vrun c len y x => cases e; exact h.whenLc_inv .active fun ha => (ha.runPrim nofun _ _ _ _ _).regs.deliver_inv .ok
  case setrot q => cases e; exact RegsInv.deliver_inv (s := { s with rot := q }) h.regs .ok
  case startup => cases e; exact h.whenLc_inv .uninitialized fun hu => hu.startupBody.finish_inv
  case display => exact h.execDisplay_inv e
  case shutdown => exact h.execShutdown_inv e
  case endisp b => cases e; exact h.whenLc_inv .active fun ha => ha.issueWire_inv _
  case invdisp b => cases e; exact h.whenLc_inv .active fun ha => ha.issueWire_inv _
  case scrl a b => cases e; exact h.startScroll_inv _ _ _ _ _
  case scrr a b => cases e; exact h.startScroll_inv _ _ _ _ _
  case scrdl a b => cases e; exact h.startScroll_inv _ _ _ _ _
  case scrdr a b => cases e; exact h.startScroll_inv _ _ _ _ _
  case scrup a b => cases e; exact h.startScroll_inv _ _ _ _ _
  case scrstop => exact h.execScrstop_inv e
  all_goals cases e; exact h.issueWire_inv _

end State.Running

/-! ## The step -/

/-- Taking a word begins an operation, its operands latched (10_state.md R20, R29). -/
theorem State.Inv.accept {s : State} (h : s.Inv) {i : Instr} (hi : i.fits s.cfg.coordW = true) (rest : List Input) :
    (s.accept (some i) rest).Running s.lc := ⟨rfl, h.regs, i, rfl, hi⟩

/-- A word that decodes, offered to a ready block, is taken and run (10_state.md R22, R29). -/
theorem State.fetch_run {s : State} {w : InstrWord} {rest : List Input} {i : Instr} (hin : s.inputs = .word w :: rest)
    (hr : s.opReady = true) (hd : decode s.cfg w = .ok i) : s.fetch = .run i (s.accept (some i) rest) := by
  simp only [State.fetch, hin, hr, hd, if_true]

/-- Settles O55: the registers' part of the invariant holds at every point of an operation, and the result or the wait
that ends the step makes it the whole; reset starts it anew, and an illegal word changes the ports alone. -/
theorem stepKeepsTheInvariant : Obligations.StepKeepsTheInvariant := by
  unfold Obligations.StepKeepsTheInvariant
  intro s t hs h
  rcases s.fetch_cases with ⟨_, _, e⟩ | ⟨_, e⟩ | ⟨_, _, e⟩ | ⟨_, rest, _, _, _, _, e⟩ | ⟨_, rest, i, _, _, hd, e⟩ |
    ⟨_, _, _, _, _, _, e⟩ <;> rw [step, e] at h
  · cases h; exact hs
  · cases h
  · cases h; exact (RegsInv.reset s.cfg).inv_of_idle rfl rfl rfl rfl
  · cases h; exact RegsInv.deliver_inv (s := s.accept none rest) hs.regs .eIllegal
  · exact (hs.accept (decode_fits hd) rest).exec_inv h
  · cases h

/-- Settles O54: the reset table is a state at a boundary, with nothing drawn. -/
theorem resetMeetsTheInvariant : Obligations.ResetMeetsTheInvariant := by
  unfold Obligations.ResetMeetsTheInvariant
  exact fun p => (RegsInv.reset p).inv_of_idle rfl rfl rfl rfl

/-- Settles O9: the step runs what the fetch has taken. -/
theorem stepRunsTheDecodedInstruction : Obligations.StepRunsTheDecodedInstruction := by
  unfold Obligations.StepRunsTheDecodedInstruction
  intro s w rest i hin hr hd
  rw [step, State.fetch_run hin hr hd]
  rfl

/-- Settles O1: each register of the reset state is the table's by definition; FB lists no byte, so that every byte
reads as FB_RESET. -/
theorem resetLeavesTheResetTable : Obligations.ResetLeavesTheResetTable := by
  unfold Obligations.ResetLeavesTheResetTable
  exact ⟨rfl, fun p => ⟨fun _ => rfl, rfl, rfl, rfl, rfl, rfl, rfl, rfl, rfl⟩⟩

end Machine

end Sys2Proof
end

section
/-! Proofs of the statements on the framebuffer's memory (20_memory.md): the address decoder, which bytes and bits
drawing writes, that no step reads outside the buffer, what a step appends to the trace and to the results, and that
DISPLAY brings the ghost of the panel in step with FB. -/

namespace Sys2Proof

/-! ## The address decoder -/

/-- The pixel of a byte's bit lies in a column of the panel (20_memory.md R38). -/
theorem Geometry.pixelOf_fst_lt (g : Geometry) (i k : Nat) : (g.pixelOf i k).1 < g.width := Nat.mod_lt _ g.width_pos

/-- The inverse decoder gives a pixel back from its byte and bit. -/
theorem Geometry.pixelOf_index (g : Geometry) {x : Nat} (hx : x < g.width) (y : Nat) :
    g.pixelOf (g.index x y) (y % 8) = (x, y) := by
  have hcol : g.index x y % g.width = x := by
    rw [Geometry.index, Nat.add_mul_mod_self_right, Nat.mod_eq_of_lt hx]
  have hpage : g.index x y / g.width = y / 8 := by
    rw [Geometry.index, Nat.add_mul_div_right _ _ g.width_pos, Nat.div_eq_of_lt hx, Nat.zero_add]
  rw [Geometry.pixelOf, hcol, hpage, Nat.div_add_mod]

/-- The decoder gives a byte back from the pixel of any of its bits. -/
theorem Geometry.index_pixelOf (g : Geometry) (i : Nat) {k : Nat} (hk : k < 8) :
    g.index (g.pixelOf i k).1 (g.pixelOf i k).2 = i := by
  have hpage : (8 * (i / g.width) + k) / 8 = i / g.width := by omega
  rw [Geometry.index, Geometry.pixelOf, hpage, Nat.mod_add_div']

/-- Settles O14: the decoder and its inverse are column and page as remainder and quotient by WIDTH, and row as
quotient and remainder by 8. -/
theorem addressDecoderIsABijection : Obligations.AddressDecoderIsABijection := by
  unfold Obligations.AddressDecoderIsABijection
  intro g
  refine ⟨fun x y hx hy => ⟨g.index_lt hx hy, g.pixelOf_index hx y⟩, fun i k _ hk => ?_⟩
  exact ⟨g.pixelOf_fst_lt i k, g.index_pixelOf i hk, by rw [Geometry.pixelOf]; omega⟩

/-! ## The mapper -/

/-- The clipped physical run that a logical run becomes is the images of its pixels that lie in the panel
(42_rotation.md R121, R122, R124). The position in the logical run counts along the physical one at the rotations that
keep its direction, and against it at the others. -/
theorem Geometry.covers_mapRun_iff (g : Geometry) (q : Rotation) (k : RunKind) (x y len : Int) (px py : Nat) :
    Machine.Covers g (g.mapRun q k x y len).1 (g.mapRun q k x y len).2.1 (g.mapRun q k x y len).2.2 len px py ↔
      px < g.width ∧ py < g.height ∧ Machine.Images g q k x y len px py := by
  unfold Machine.Covers Machine.Images
  refine and_congr_right fun _ => and_congr_right fun _ => ?_
  cases k <;> cases q <;> simp only [Geometry.mapRun, Geometry.pointMap, Prod.mk.injEq] <;>
    refine ⟨fun h => ?_, fun ⟨i, h⟩ => by omega⟩
  case horizontal.deg0 => exact ⟨px - x, by omega⟩
  case horizontal.deg90 => exact ⟨py - x, by omega⟩
  case horizontal.deg180 => exact ⟨g.width - 1 - x - px, by omega⟩
  case horizontal.deg270 => exact ⟨g.height - 1 - x - py, by omega⟩
  case vertical.deg0 => exact ⟨py - y, by omega⟩
  case vertical.deg90 => exact ⟨g.width - 1 - y - px, by omega⟩
  case vertical.deg180 => exact ⟨g.height - 1 - y - py, by omega⟩
  case vertical.deg270 => exact ⟨px - y, by omega⟩

namespace Machine

/-! ## The bytes that drawing writes -/

/-- A loop of pixels leaves alone every byte that holds none of them, whatever the list of cells. -/
theorem fbRead_foldl_plot_other {p : Params} (c : Colour) (px py : Nat → Nat) {i n : Nat}
    (h : ∀ k < n, p.geometry.index (px k) (py k) ≠ i) (m : Memory) :
    fbRead p ((List.range n).foldl (fun m k => plot p c m (px k) (py k)) m) i = fbRead p m i := by
  induction n with
  | zero => rfl
  | succ n ih =>
    rw [List.range_succ, List.foldl_append]
    exact (fbRead_fbWrite_other (h n (by omega)).symm _).trans (ih fun k hk => h k (by omega))

/-- A primitive leaves alone every byte that holds no pixel of its clipped run (20_memory.md R37). -/
theorem State.fbRead_runPrim_other (s : State) (k : RunKind) (x y len : Int) (c : Colour) {i : Nat}
    (h : ∀ px py, Covers s.cfg.geometry k x y len px py → s.cfg.geometry.index px py ≠ i) :
    fbRead s.cfg (s.runPrim k x y len c).fb i = fbRead s.cfg s.fb i := by
  cases k
  case horizontal =>
    rcases s.fbHrun_cases x y len c with e | ⟨xa, xe, yy, _, _, _, _, _, _, e⟩ <;> rw [State.runPrim, e]
    exact fbRead_foldl_plot_other c (xa + ·) (fun _ => yy)
      (fun j hj => h _ _ ⟨by omega, by omega, by omega, by omega, by omega⟩) _
  case vertical =>
    rcases s.fbVrun_cases x y len c with e | ⟨ya, ye, xx, _, _, _, _, _, _, e⟩ <;> rw [State.runPrim, e]
    exact fbRead_foldl_plot_other c (fun _ => xx) (ya + ·)
      (fun j hj => h _ _ ⟨by omega, by omega, by omega, by omega, by omega⟩) _

/-- A logical run leaves alone every byte that holds no image of its pixels. -/
theorem State.fbRead_drawRun_other (s : State) (k : RunKind) (x y len : Int) (c : Colour) {i : Nat}
    (h : ∀ px py, px < s.cfg.geometry.width → py < s.cfg.geometry.height →
      Images s.cfg.geometry s.rot k x y len px py → s.cfg.geometry.index px py ≠ i) :
    fbRead s.cfg (s.drawRun k x y len c).fb i = fbRead s.cfg s.fb i := by
  refine s.fbRead_runPrim_other _ _ _ len c fun px py hc => ?_
  obtain ⟨hx, hy, himage⟩ := (s.cfg.geometry.covers_mapRun_iff s.rot k x y len px py).mp hc
  exact h px py hx hy himage

/-- HRUN and VRUN refuse, or draw and end OK. -/
theorem exec_run_cases {s t : State} {k : RunKind} {c : Colour} {len y x : Int}
    (h : (match k with | .horizontal => exec (.hrun c len y x) s | .vertical => exec (.vrun c len y x) s) = .next t) :
    t = s.deliver .eUsage ∨ t = (s.drawRun k x y len c).deliver .ok := by
  cases k
  case horizontal =>
    rcases execHrun_cases s c len y x with ⟨_, e⟩ | ⟨_, e⟩ <;> cases e.symm.trans h
    · exact .inl rfl
    · exact .inr rfl
  case vertical =>
    rcases execVrun_cases s c len y x with ⟨_, e⟩ | ⟨_, e⟩ <;> cases e.symm.trans h
    · exact .inl rfl
    · exact .inr rfl

/-- Settles O30: a run changes FB and DW alone, and of FB the bytes of its clipped physical run, whose pixels are the
images in the panel. -/
theorem drawingFrame : Obligations.DrawingFrame := by
  unfold Obligations.DrawingFrame
  intro s t k c len y x h
  rcases exec_run_cases h with rfl | rfl
  · exact ⟨rfl, rfl, rfl, rfl, rfl, ⟨rfl, rfl, rfl⟩, fun _ _ => rfl⟩
  · have hfb := fun i => s.fbRead_drawRun_other k x y len c (i := i)
    obtain ⟨fb, dw, e⟩ := s.drawRun_frame k x y len c
    rw [e] at hfb ⊢
    exact ⟨rfl, rfl, rfl, rfl, rfl, ⟨rfl, rfl, rfl⟩, hfb⟩

/-! ## The pad bits of the last page -/

theorem State.runPrim_cfg (s : State) (k : RunKind) (x y len : Int) (c : Colour) :
    (s.runPrim k x y len c).cfg = s.cfg := by
  obtain ⟨_, _, e⟩ := s.runPrim_frame k x y len c
  rw [e]

/-- The primitives keep the addresses rising and every bit of a row at or below HEIGHT: a clipped run has no pixel
there (20_memory.md R38, R53). -/
theorem State.runPrim_keeps_pad {s : State} (h : s.fb.rising = true) (k : RunKind) (x y len : Int) (c : Colour) :
    (s.runPrim k x y len c).fb.rising = true ∧ ∀ px py, px < s.cfg.geometry.width → s.cfg.geometry.height ≤ py →
      pixel s.cfg (s.runPrim k x y len c).fb px py = pixel s.cfg s.fb px py := by
  cases k
  case horizontal =>
    rcases s.fbHrun_cases x y len c with e | ⟨xa, xe, yy, _, _, _, _, _, _, e⟩ <;> rw [State.runPrim, e]
    · exact ⟨h, fun _ _ _ _ => rfl⟩
    · refine ⟨rising_hrunCells c _ _ _ h, fun px py hx hy => ?_⟩
      rw [pixel_hrunCells h c (by omega) hx, if_neg (by omega)]
  case vertical =>
    rcases s.fbVrun_cases x y len c with e | ⟨ya, ye, xx, _, _, _, _, _, _, e⟩ <;> rw [State.runPrim, e]
    · exact ⟨h, fun _ _ _ _ => rfl⟩
    · refine ⟨rising_vrunCells c _ _ _ h, fun px py hx hy => ?_⟩
      rw [pixel_vrunCells h c (by omega) hx, if_neg (by omega)]

/-- Primitive calls in order keep every bit of a row at or below HEIGHT. -/
theorem State.pixel_runCalls_pad {p : Params} (cs : List PrimCall) {s : State} (hp : s.cfg = p)
    (h : s.fb.rising = true) {px py : Nat} (hx : px < p.geometry.width) (hy : p.geometry.height ≤ py) :
    pixel p (s.runCalls cs).fb px py = pixel p s.fb px py := by
  induction cs generalizing s with
  | nil => rfl
  | cons c cs ih =>
    subst hp
    obtain ⟨hrising, hpad⟩ := State.runPrim_keeps_pad h c.kind c.x c.y c.length c.colour
    exact (ih (s.runPrim_cfg c.kind c.x c.y c.length c.colour) hrising).trans (hpad px py hx hy)

/-- What `t` holds in FB is what primitive calls from `s` leave there. -/
def Redrawn (s t : State) : Prop := ∃ cs, t.fb = (s.runCalls cs).fb

namespace Redrawn

variable {s t : State}

/-- No call leaves FB as it was. -/
theorem same (h : t.fb = s.fb) : Redrawn s t := ⟨[], h⟩

theorem drawRun (s : State) (k : RunKind) (x y len : Int) (c : Colour) : Redrawn s (s.drawRun k x y len c) :=
  let r := s.cfg.geometry.mapRun s.rot k x y len
  ⟨[⟨r.1, r.2.1, r.2.2, len, c⟩], rfl⟩

theorem configured (s : State) : Redrawn s s.configured := ⟨s.cfg.splash, s.configured_fb⟩

theorem whenLc (need : Lifecycle) {body : State → State} (h : s.lc = need → Redrawn s (body s)) :
    Redrawn s (s.whenLc need body) := by
  rcases s.whenLc_cases need body with ⟨_, e⟩ | ⟨hl, e⟩ <;> rw [e]
  · exact same rfl
  · exact h hl

theorem issueWire (s : State) (i : Instr) : Redrawn s (s.issueWire i) := by
  rcases s.issueWire_cases i with e | e | e <;> rw [e] <;> exact same rfl

theorem startScroll (s : State) (d hi v a b : Byte) : Redrawn s (s.startScroll d hi v a b) := by
  refine whenLc _ fun _ => ?_
  rcases emitAll_cases (scrollTxns s.cfg d hi v a b) s with e | ⟨_, _, _, _, e⟩ | ⟨_, _, _, _, e⟩ <;> rw [e] <;>
    exact same rfl

/-- STARTUP draws its splash, if it comes to it (43_sequencer.md R136). -/
theorem execStartup (h : execStartup s = .next t) : Redrawn s t := by
  cases h
  refine whenLc _ fun _ => ?_
  rcases s.startupBody_cases with e | ⟨_, _, _, _, e | e⟩ | ⟨_, _, _, _, _, e | e⟩ | e | e <;> rw [e]
  · exact configured s
  · exact same rfl
  · exact same rfl
  all_goals exact configured s

theorem execDisplay (h : execDisplay s = .next t) : Redrawn s t := by
  rcases execDisplay_cases s with ⟨_, e⟩ | ⟨_, _, e⟩ | ⟨_, _, e⟩ <;> cases e.symm.trans h
  · exact same rfl
  · rcases s.flush_cases with ⟨_, e⟩ | ⟨_, e | ⟨_, _, _, _, _, e⟩ | ⟨_, _, _, _, _, e⟩⟩ <;> rw [e] <;> exact same rfl

theorem execShutdown (h : execShutdown s = .next t) : Redrawn s t := by
  by_cases hl : s.lc = .active
  · rcases s.shutdown_cases hl with e | ⟨_, _, _, _, e | e⟩ <;> cases e.symm.trans h <;> exact same rfl
  · cases h; exact whenLc _ fun e => absurd e hl

theorem execScrstop (h : execScrstop s = .next t) : Redrawn s t := by
  by_cases hl : s.lc = .active
  · rcases s.scrstop_cases hl with e | e | e <;> cases e.symm.trans h <;> exact same rfl
  · cases h; exact whenLc _ fun e => absurd e hl

/-- Every instruction changes FB by primitive calls alone, HRUN and VRUN by one, STARTUP by its splash, the others by
none (20_memory.md R49). -/
theorem exec {i : Instr} (h : exec i s = .next t) : Redrawn s t := by
  cases i
  case hrun c len y x => cases h; exact whenLc _ fun _ => drawRun s .horizontal x y len c
  case vrun c len y x => cases h; exact whenLc _ fun _ => drawRun s .vertical x y len c
  case setrot q => cases h; exact same rfl
  case startup => exact execStartup h
  case display => exact execDisplay h
  case shutdown => exact execShutdown h
  case scrstop => exact execScrstop h
  case endisp b => cases h; exact whenLc _ fun _ => issueWire s _
  case invdisp b => cases h; exact whenLc _ fun _ => issueWire s _
  case scrl | scrr | scrdl | scrdr | scrup => cases h; exact startScroll s _ _ _ _ _
  all_goals cases h; exact issueWire s _

end Redrawn

/-- Settles O31: FB changes by primitive calls alone, and their clipped runs have no pixel at or below HEIGHT. -/
theorem padBitsAreNeverWritten : Obligations.PadBitsAreNeverWritten := by
  unfold Obligations.PadBitsAreNeverWritten
  intro i s t hwf h px py hx hy
  obtain ⟨cs, e⟩ := Redrawn.exec h
  rw [e]
  exact State.pixel_runCalls_pad cs rfl (Memory.wf_iff.mp hwf).1 hx hy

/-! ## What a step reads -/

theorem Alike.refl {s : State} (h : s.fb.rising = true) : Alike s s := ⟨rfl, h, h, fun _ _ => rfl⟩

/-- The host port takes an operation whatever FB holds. -/
theorem Alike.accept {s s' : State} (h : Alike s s') (i : Option Instr) (rest : List Input) :
    Alike (s.accept i rest) (s'.accept i rest) :=
  h.update (State.accept i rest) (fun _ _ => rfl) (fun _ => rfl) fun _ => rfl

/-- Reset leaves FB at its reset value, whatever it held. -/
theorem Alike.assertReset {s s' : State} (h : Alike s s') : s'.assertReset = s.assertReset := by
  rw [h.eq]; rfl

/-- Every step reads FB inside its bytes alone, from a state whose window is legal. -/
theorem Alike.step {s s' t : State} (h : Alike s s') (hw : Window.Legal s.cfg.geometry s.dw)
    (hs : step s = .next t) : ∃ t', step s' = .next t' ∧ Alike t t' := by
  have hin' : s'.inputs = s.inputs := by rw [h.eq]
  have hr' : s'.opReady = s.opReady := by rw [h.eq]
  rcases s.fetch_cases with ⟨hin, hr, e⟩ | ⟨_, e⟩ | ⟨rest, hin, e⟩ | ⟨w, rest, _, hin, hr, hd, e⟩ |
    ⟨w, rest, i, hin, hr, hd, e⟩ | ⟨_, _, _, _, _, _, e⟩ <;> rw [Machine.step, e] at hs
  · cases hs
    exact ⟨s', by simp [Machine.step, State.fetch, hin', hr', hin, hr], h⟩
  · cases hs
  · cases hs
    exact ⟨_, by simp only [Machine.step, State.fetch, hin', hin, h.assertReset], .refl rfl⟩
  · cases hs
    exact ⟨_, by simp [Machine.step, State.fetch, hin', hr', hin, hr, decode, hd], (h.accept none rest).deliver _⟩
  · obtain ⟨u, v, hu, hv, huv⟩ := (h.accept (some i) rest).exec hw i
    cases hs.symm.trans hu
    exact ⟨v, by rwa [Machine.step, State.fetch_run (hin'.trans hin) (hr'.trans hr) (h.cfg ▸ hd)], huv⟩
  · cases hs

/-- From the invariant no step makes FLUSH leave the buffer: the window is legal (10_state.md R16). -/
theorem State.Inv.step_in_range {s : State} (h : s.Inv) : step s ≠ .fault .windowOutOfRange := by
  intro hs
  rcases s.fetch_cases with ⟨_, _, e⟩ | ⟨_, e⟩ | ⟨_, _, e⟩ | ⟨_, _, _, _, _, _, e⟩ | ⟨_, rest, i, _, _, _, e⟩ |
    ⟨_, _, _, _, _, _, e⟩ <;> rw [step, e] at hs
  case inr.inr.inr.inr.inl =>
    have ha : Alike (s.accept (some i) rest) (s.accept (some i) rest) := .refl (Memory.wf_iff.mp h.fb_wf).1
    obtain ⟨u, _, hu, _, _⟩ := ha.exec h.dw_legal i
    cases hs.symm.trans hu
  all_goals cases hs

/-- A window that is not empty and leaves the buffer on some side is not readable (20_memory.md R44). -/
theorem Window.not_readable {g : Geometry} {w : Window} (he : w.isEmpty = false)
    (h : w.x1 < 0 ∨ (g.width : Int) ≤ w.x2 ∨ w.y1 < 0 ∨ (g.height : Int) ≤ w.y2) : w.readable g = false := by
  simp only [Window.readable, he, Bool.false_or, Bool.and_eq_false_iff, decide_eq_false_iff_not]
  omega

/-- Settles O44: two states that differ in FB outside the buffer step alike, the window of the invariant being
readable; and DISPLAY checks that before it flushes. -/
theorem noStepReadsOutsideTheBuffer : Obligations.NoStepReadsOutsideTheBuffer := by
  unfold Obligations.NoStepReadsOutsideTheBuffer
  refine ⟨fun s t m hs hm hin h => ?_, fun s hs => hs.step_in_range, fun s hl he hout => ?_⟩
  · have ha : Alike s { s with fb := m } := ⟨rfl, (Memory.wf_iff.mp hs.fb_wf).1, hm, hin⟩
    obtain ⟨t', ht', halike⟩ := ha.step hs.dw_legal h
    exact ⟨t'.fb, by rw [ht', ← halike.eq], by rw [← step_cfg h]; exact halike.inside⟩
  · exact if_pos ⟨hl, Window.not_readable he hout⟩

/-! ## What a step appends to the trace and to the results -/

theorem ok_of_mem_sent {ts : List Txn} {r : TxnRecord} (h : r ∈ ts.map fun t => (⟨t, true⟩ : TxnRecord)) :
    r.ok = true := by
  obtain ⟨_, _, rfl⟩ := List.mem_map.mp h
  rfl

/-- What a step may append to the trace and to the results (20_memory.md R48, 60_exceptions.md R172, R182). -/
def Appends (s t : State) : Prop :=
  ∃ l : List TxnRecord, t.trace = s.trace ++ l ∧ (∀ r ∈ l.dropLast, r.ok = true) ∧
    (t.results = s.results ∨ ∃ r, t.results = s.results ++ [r] ∧
      (r = .eTransport ↔ ∃ x, l.getLast? = some ⟨x, false⟩))

namespace Appends

variable {s t u : State}

/-- Transactions answered `ok` and no result: the operation waits, or nothing has happened. -/
theorem of_sentOk (h : SentOk s t) : Appends s t := by
  obtain ⟨hres, ts, htr⟩ := h
  exact ⟨_, htr, fun r hr => ok_of_mem_sent (List.mem_of_mem_dropLast hr), .inl hres⟩

/-- Transactions answered `ok`, then a result that is not E_TRANSPORT. -/
theorem deliver (h : SentOk s u) {r : ResultCode} (hr : r ≠ .eTransport) : Appends s (u.deliver r) := by
  obtain ⟨hres, ts, htr⟩ := h
  refine ⟨_, htr, fun x hx => ok_of_mem_sent (List.mem_of_mem_dropLast hx), .inr ⟨r, by simp [hres], ?_⟩⟩
  refine iff_of_false hr fun ⟨x, hx⟩ => ?_
  cases ok_of_mem_sent (List.mem_of_getLast? hx)

/-- Transactions answered `ok`, one answered `fail`, then E_TRANSPORT. -/
theorem deliver_failed {v : State} (h : SentOk s v) {x : Txn} (hres : u.results = v.results)
    (htr : u.trace = v.trace ++ [⟨x, false⟩]) : Appends s (u.deliver .eTransport) := by
  obtain ⟨hres', ts, htr'⟩ := h
  refine ⟨(ts.map fun t => ⟨t, true⟩) ++ [⟨x, false⟩], by simp [htr, htr'], fun r hr => ?_,
    .inr ⟨.eTransport, by simp [hres, hres'], by simp⟩⟩
  rw [List.dropLast_concat] at hr
  exact ok_of_mem_sent hr

theorem of_ran {i : Instr} (h : Ran i s t) : Appends s t := by
  cases h with
  | usage e _ => subst e; exact deliver (.refl s) nofun
  | ok u e h => subst e; exact deliver h nofun
  | failed u x e h _ _ =>
    subst e
    obtain ⟨v, hv, hres, htr⟩ := h
    exact deliver_failed hv hres htr
  | waits u x e h => subst e; exact of_sentOk h

end Appends

/-- Settles O58: an instruction has run in one of four ways, and what a step does besides running one sends nothing. -/
theorem traceAndResultsOnlyGrow : Obligations.TraceAndResultsOnlyGrow := by
  unfold Obligations.TraceAndResultsOnlyGrow
  intro s t h
  change Appends s t
  rcases s.fetch_cases with ⟨_, _, e⟩ | ⟨_, e⟩ | ⟨_, _, e⟩ | ⟨_, rest, _, _, _, _, e⟩ | ⟨_, rest, i, _, _, _, e⟩ |
    ⟨_, _, _, _, _, _, e⟩ <;> rw [step, e] at h
  · cases h; exact .of_sentOk (.refl s)
  · cases h
  · cases h; exact .of_sentOk (.same rfl rfl)
  · cases h; exact .deliver (u := s.accept none rest) (.same rfl rfl) nofun
  · exact .of_ran (s := s.accept (some i) rest) (exec_ran i _ t h)
  · cases h

end Machine

end Sys2Proof
end

section
/-! The ghost of the panel under a flush (20_memory.md R45, R46, R49): what the two transactions of a page do to it, and
what DISPLAY leaves in its memory. -/

namespace Sys2Proof

/-! ## The commands of a page -/

/-- A code is none of those that come before it in the record. -/
theorem WireCodes.Decodable.ne_of_mem_take {wc : WireCodes} (h : wc.Decodable) {n : Nat} {k : Byte}
    (hk : k ∈ wc.codes.drop n) : ∀ c ∈ wc.codes.take n, k ≠ c := by
  obtain ⟨hnodup, -, -⟩ := h
  rintro c hc rfl
  exact List.disjoint_take_drop hnodup le_rfl hc hk

/-- page-address-range is read back from its bytes, where the codes tell the commands apart (30_encoding.md R73, R99). -/
theorem decodeWire_pageAddr {wc : WireCodes} (h : wc.Decodable) (a b : Byte) (rest : List Byte) :
    decodeWire wc (wc.pageAddr :: a :: b :: rest) = .ok (.wPageAddr a b, rest) := by
  have hne := h.ne_of_mem_take (n := 24) (k := wc.pageAddr) (by simp [WireCodes.codes])
  simp only [WireCodes.codes, List.take_succ_cons, List.take_zero, List.forall_mem_cons] at hne
  simp [decodeWire, wire2, hne]

/-- column-address-range likewise (R98). -/
theorem decodeWire_columnAddr {wc : WireCodes} (h : wc.Decodable) (a b : Byte) (rest : List Byte) :
    decodeWire wc (wc.columnAddr :: a :: b :: rest) = .ok (.wColumnAddr a b, rest) := by
  have hne := h.ne_of_mem_take (n := 23) (k := wc.columnAddr) (by simp [WireCodes.codes])
  simp only [WireCodes.codes, List.take_succ_cons, List.take_zero, List.forall_mem_cons] at hne
  simp [decodeWire, wire2, hne]

namespace Machine

/-- The panel ready for data on page `pg`, from column `a` to column `b`. -/
def Panel.addressed (pg a b : Byte) (p : Panel) : Panel :=
  { p with pageRange := some (pg, pg), colRange := some (a, b), pointer := some (pg, a) }

/-- The address command of a page sets both ranges, and the pointer to the first column of the page. -/
theorem Panel.delivered_address {wc : WireCodes} (h : wc.Decodable) (pg a b : Byte) (p : Panel) :
    p.delivered wc (.cmdseq [wc.pageAddr, pg, pg, wc.columnAddr, a, b]) = p.addressed pg a b := by
  have hparse : parseCommands wc 6 [wc.pageAddr, pg, pg, wc.columnAddr, a, b] =
      some [.wPageAddr pg pg, .wColumnAddr a b] := by
    simp [parseCommands, decodeWire_pageAddr h, decodeWire_columnAddr h]
  simp [Panel.delivered, Panel.commands, hparse, Panel.apply, Panel.addressed]

/-! ## The data of a page -/

/-- No scroll active and horizontal addressing: data bytes have a determined effect where the ranges are set
(20_memory.md R46). -/
structure Panel.Writable (p : Panel) : Prop where
  scrolling : p.scrolling = some false
  memoryMode : p.memoryMode = some 0

theorem Panel.Writable.addressed {p : Panel} (h : p.Writable) (pg a b : Byte) : (p.addressed pg a b).Writable :=
  ⟨h.scrolling, h.memoryMode⟩

theorem Panel.Writable.target_addressed {p : Panel} (h : p.Writable) (pg a b : Byte) :
    (p.addressed pg a b).target = some (pg, a, a, b) := by
  simp [Panel.target, Panel.addressed, h.scrolling, h.memoryMode]

/-- Up to the end of the column range the bytes go to consecutive cells: the pointer has not wrapped. -/
theorem Panel.cells_eq_map_range (pg a : Byte) {b : Nat} (hb : b < 256) {c n : Nat} (h : c + n ≤ b + 1) :
    Panel.cells pg a (BitVec.ofNat 8 b) (BitVec.ofNat 8 c) n = (List.range n).map (pg.toNat * 256 + c + ·) := by
  induction n generalizing c with
  | zero => rfl
  | succ n ih =>
    have hcell : Panel.cell pg (BitVec.ofNat 8 c) = pg.toNat * 256 + c := by
      rw [Panel.cell, BitVec.toNat_ofNat, Nat.mod_eq_of_lt (by omega)]
    rw [Panel.cells, hcell, List.range_succ_eq_map, List.map_cons, List.map_map, Nat.add_zero]
    congr 1
    cases n with
    | zero => rfl
    | succ n =>
      have hne : BitVec.ofNat 8 c ≠ BitVec.ofNat 8 b := by
        rw [Ne, ← BitVec.toNat_inj, BitVec.toNat_ofNat, BitVec.toNat_ofNat]
        omega
      have hnext : BitVec.ofNat 8 c + 1 = BitVec.ofNat 8 (c + 1) := by simp [BitVec.ofNat_add]
      rw [if_neg hne, hnext, ih (by omega)]
      exact List.map_congr_left fun k _ => by simp only [Function.comp_apply]; omega

/-- The read after consecutive cells from `a` were listed. -/
theorem Memory.get?_foldl_set (a n : Nat) (f : Nat → Byte) (m : Memory) (x : Nat) :
    ((List.range n).foldl (fun m k => m.set (a + k) (f k)) m).get? x =
      if a ≤ x ∧ x < a + n then some (f (x - a)) else m.get? x := by
  induction n with
  | zero => rw [if_neg (by omega)]; rfl
  | succ n ih =>
    rw [List.range_succ, List.foldl_append, List.foldl_cons, List.foldl_nil, Memory.get?_set, ih]
    by_cases hx : x = a + n
    · rw [if_pos hx, if_pos (by omega), hx, Nat.add_sub_cancel_left]
    · rw [if_neg hx]
      exact if_congr (by omega) rfl rfl

/-- The data of a page go to its columns, from the first of the range on. -/
theorem Panel.Writable.gddram_data {p : Panel} (h : p.Writable) (wc : WireCodes) (pg : Byte) (x1 : Nat) {x2 : Nat}
    (hx2 : x2 < 256) (f : Nat → Byte) :
    ((p.addressed pg (BitVec.ofNat 8 x1) (BitVec.ofNat 8 x2)).delivered wc
        (.data ((List.range (x2 + 1 - x1)).map f))).gddram =
      (List.range (x2 + 1 - x1)).foldl (fun m k => m.set (pg.toNat * 256 + x1 + k) (f k)) p.gddram := by
  rw [Panel.delivered, Panel.write, h.target_addressed]
  by_cases hx : x1 ≤ x2
  · dsimp only
    rw [List.length_map, List.length_range, Panel.cells_eq_map_range _ _ hx2 (by omega), List.zip_map', List.foldl_map]
    rfl
  · rw [Nat.sub_eq_zero_of_le (by omega)]
    rfl

/-- Data bytes keep the panel writable. -/
theorem Panel.Writable.data {p : Panel} (h : p.Writable) (wc : WireCodes) (ds : List Byte) :
    (p.delivered wc (.data ds)).Writable := by
  rw [Panel.delivered, Panel.write]
  split <;> exact ⟨h.scrolling, h.memoryMode⟩

/-! ## The flush -/

/-- One page of a flush keeps the panel writable. -/
theorem Panel.Writable.pagePair {p : Panel} (h : p.Writable) {cfg : Params} (hwc : cfg.wc.Decodable) (m : Memory)
    (x1 x2 pg : Nat) : ((Machine.pagePair cfg m x1 x2 pg).foldl (fun p t => p.delivered cfg.wc t) p).Writable := by
  rw [Machine.pagePair, List.foldl_cons, Panel.delivered_address hwc]
  exact (h.addressed _ _ _).data cfg.wc _

/-- One page of a flush, delivered whole: the columns sent take the bytes of FB on that page and keep what they held on
the others. -/
theorem Panel.Writable.gddram_pagePair {p : Panel} (h : p.Writable) {cfg : Params} (hwc : cfg.wc.Decodable) (m : Memory)
    {x1 x2 pg : Nat} (hx2 : x2 < 256) (hpg : pg < 256) (q : Nat) {col : Nat} (h1 : x1 ≤ col) (h2 : col ≤ x2) :
    ((Machine.pagePair cfg m x1 x2 pg).foldl (fun p t => p.delivered cfg.wc t) p).gddram.get? (q * 256 + col) =
      if q = pg then some (fbRead cfg m (pg * cfg.geometry.width + col)) else p.gddram.get? (q * 256 + col) := by
  rw [Machine.pagePair, List.foldl_cons, List.foldl_cons, List.foldl_nil, Panel.delivered_address hwc,
    h.gddram_data _ _ _ hx2, Memory.get?_foldl_set, BitVec.toNat_ofNat, Nat.mod_eq_of_lt hpg]
  by_cases hq : q = pg
  · have hoffset : pg * cfg.geometry.width + x1 + (q * 256 + col - (pg * 256 + x1)) =
        pg * cfg.geometry.width + col := by subst hq; omega
    rw [if_pos (by omega), if_pos hq, hoffset]
  · rw [if_neg (by omega), if_neg hq]

/-- A flush of columns `x1` to `x2`, delivered whole: on its pages the panel holds FB there, and on the others what it
held before. -/
theorem Panel.Writable.gddram_flush {p : Panel} (hw : p.Writable) {cfg : Params} (hwc : cfg.wc.Decodable) (m : Memory)
    {x1 x2 : Nat} (hx2 : x2 < 256) {pages : List Nat} (hpages : ∀ pg ∈ pages, pg < 256) {q col : Nat}
    (h1 : x1 ≤ col) (h2 : col ≤ x2) :
    ((pages.flatMap (Machine.pagePair cfg m x1 x2)).foldl (fun p t => p.delivered cfg.wc t) p).gddram.get?
        (q * 256 + col) =
      if q ∈ pages then some (fbRead cfg m (q * cfg.geometry.width + col)) else p.gddram.get? (q * 256 + col) := by
  induction pages generalizing p with
  | nil => rfl
  | cons pg pages ih =>
    rw [List.flatMap_cons, List.foldl_append, ih (hw.pagePair hwc m x1 x2 pg) fun q hq => hpages q (by simp [hq]),
      hw.gddram_pagePair hwc m hx2 (hpages pg (by simp)) q h1 h2]
    by_cases hq : q = pg <;> simp [hq]

/-- DISPLAY of a legal window that is not empty, every transaction answered `ok` (43_sequencer.md R138, R139). -/
theorem execDisplay_ok {s : State} (hl : s.lc = .active) (hw : Window.Legal s.cfg.geometry s.dw)
    (he : s.dw.isEmpty = false) (ha : s.transport.AllOk (flushByRule s).length) :
    execDisplay s = .next (((s.sent (flushByRule s)).atPage 0).resetWindow.deliver .ok) := by
  rcases execDisplay_cases s with ⟨hn, _⟩ | ⟨_, hr, _⟩ | ⟨_, _, e⟩
  · exact absurd hl hn
  · rw [Window.readable_of_legal hw] at hr; cases hr
  · rw [← flushTxns_eq_flushByRule hw he] at ha ⊢
    rw [e, State.flush_ok he ha, Io.finish]

/-- Settles O59: page by page, the two transactions of the flush leave the window's bytes of FB in the panel, and
nothing after them in the flush writes the page again. -/
theorem displayBringsThePanelInStep : Obligations.DisplayBringsThePanelInStep := by
  unfold Obligations.DisplayBringsThePanelInStep
  intro s hl hlegal he hwc hscroll hmode ha
  obtain ⟨hx1, hx12, hx2, hy1, hy12, hy2⟩ := Window.box_of_legal hlegal he
  have hwidth := s.cfg.geometry.width_legal
  have hheight := s.cfg.geometry.height_legal
  refine ⟨_, execDisplay_ok hl hlegal he ha, fun pg col hp1 hp2 hc1 hc2 => ?_⟩
  have hwritable : s.panel.Writable := ⟨hscroll, hmode⟩
  have hpages : ∀ q ∈ List.range' (s.dw.y1.toNat / 8) (s.dw.y2.toNat / 8 + 1 - s.dw.y1.toNat / 8), q < 256 := by
    intro q hq
    rw [List.mem_range'_1] at hq
    omega
  refine (hwritable.gddram_flush hwc s.fb (x1 := s.dw.x1.toNat) (x2 := s.dw.x2.toNat) (by omega) hpages
    (by omega) (by omega)).trans (if_pos ?_)
  rw [List.mem_range'_1]
  omega

end Machine

end Sys2Proof
end

section
/-! Proofs of the statements on the encoding (30_encoding.md): host words and their instructions, the legal words, wire
commands read back from their bytes, and what each wire command sends. -/

namespace Sys2Proof

/-! ## The fields of a host word -/

theorem Colour.code_lt (c : Colour) : c.code < 4 := by cases c <;> decide

theorem Rotation.code_lt (q : Rotation) : q.code < 4 := by cases q <;> decide

theorem bit_lt_four (b : Bool) : b.toNat < 4 := b.toNat_lt.trans (by decide)

/-- A word of format D is its opcode, its operands in their fields and the reserved field 0: no field runs into
another (30_encoding.md R56, R69). -/
theorem eq_wordD_iff {op : Nat} (hop : op < 256) {w : OpWord} {c : Colour} {len y x : Int} :
    w = wordD op c len y x ↔ (w.extractLsb' 56 8).toNat = op ∧ w.extractLsb' 48 6 = 0 ∧
      (w.extractLsb' 54 2).toNat = c.code ∧ w.extractLsb' 32 16 = BitVec.ofInt 16 len ∧
      w.extractLsb' 16 16 = BitVec.ofInt 16 y ∧ w.extractLsb' 0 16 = BitVec.ofInt 16 x := by
  have hc := c.code_lt
  have hlen := (BitVec.ofInt 16 len).isLt
  have hy := (BitVec.ofInt 16 y).isLt
  have hx := (BitVec.ofInt 16 x).isLt
  have hw := w.isLt
  simp only [wordD, ← BitVec.toNat_inj, BitVec.extractLsb'_toNat, Nat.shiftRight_eq_div_pow, BitVec.toNat_ofNat,
    BitVec.ofNat_eq_ofNat]
  generalize (BitVec.ofInt 16 len).toNat = len at *
  generalize (BitVec.ofInt 16 y).toNat = y at *
  generalize (BitVec.ofInt 16 x).toNat = x at *
  omega

/-- A word with one operand of `n` bits at its low end is its opcode, that operand and the reserved field 0
(R57 to R60, R69). -/
theorem eq_wordN_iff {n m : Nat} (h : n + m = 56) {op low : Nat} (hop : op < 256) (hlow : low < 2 ^ n) {w : OpWord} :
    w = wordN op low ↔
      (w.extractLsb' 56 8).toNat = op ∧ w.extractLsb' n m = 0 ∧ (w.extractLsb' 0 n).toNat = low := by
  have hle : 2 ^ n ≤ 2 ^ 56 := Nat.pow_le_pow_right (by omega) (by omega)
  have hsplit : w.toNat % 2 ^ 56 = w.toNat % 2 ^ n + 2 ^ n * (w.toNat / 2 ^ n % 2 ^ m) := by
    rw [← h, pow_add, Nat.mod_mul]
  have hw := w.isLt
  simp only [wordN, ← BitVec.toNat_inj, BitVec.extractLsb'_toNat, Nat.shiftRight_eq_div_pow, BitVec.toNat_ofNat,
    BitVec.ofNat_eq_ofNat, Nat.zero_mod, pow_zero, Nat.div_one]
  constructor
  · intro e
    have hlo : w.toNat % 2 ^ 56 = low := by omega
    have hn : w.toNat % 2 ^ n = low := by
      rw [← Nat.mod_mod_of_dvd w.toNat (pow_dvd_pow 2 (by omega : n ≤ 56)), hlo, Nat.mod_eq_of_lt hlow]
    have hr : 2 ^ n * (w.toNat / 2 ^ n % 2 ^ m) = 0 := by omega
    exact ⟨by omega, by simpa using hr, hn⟩
  · rintro ⟨ho, hr, hl⟩
    rw [hr, hl, mul_zero] at hsplit
    omega

/-- A word of format S is its opcode, its two page bytes and the reserved field 0 (R59, R69). -/
theorem eq_wordS_iff {op : Nat} (hop : op < 256) {w : OpWord} {stop start : Byte} :
    w = wordS op stop start ↔ (w.extractLsb' 56 8).toNat = op ∧ w.extractLsb' 16 40 = 0 ∧
      w.extractLsb' 8 8 = stop ∧ w.extractLsb' 0 8 = start := by
  have hw := w.isLt
  simp only [wordS, ← BitVec.toNat_inj, BitVec.extractLsb'_toNat, Nat.shiftRight_eq_div_pow, BitVec.toNat_ofNat,
    BitVec.ofNat_eq_ofNat]
  omega

theorem opcode_wordD {op : Nat} (hop : op < 256) (c : Colour) (len y x : Int) :
    ((wordD op c len y x).extractLsb' 56 8).toNat = op := ((eq_wordD_iff hop).mp rfl).1

theorem opcode_wordS {op : Nat} (hop : op < 256) (stop start : Byte) :
    ((wordS op stop start).extractLsb' 56 8).toNat = op := ((eq_wordS_iff hop).mp rfl).1

theorem opcode_wordN {op low : Nat} (hop : op < 256) (hlow : low < 4) :
    ((wordN op low).extractLsb' 56 8).toNat = op :=
  ((eq_wordN_iff (n := 56) (m := 0) rfl hop (hlow.trans (by decide))).mp rfl).1

/-! ## The formats

What each format asks of the reserved field and reads from the operand fields (R56 to R60). -/

/-- Colours are read by their code, and code 3 is none's (R62). -/
theorem decodeColour_eq_ok_iff {v : BitVec 2} {c : Colour} : decodeColour v = .ok c ↔ v.toNat = c.code := by
  revert v
  cases c <;> decide

/-- Every colour code but 3 is some colour's (R62, R64). -/
theorem exists_colour_code_iff {v : BitVec 2} : (∃ c : Colour, v.toNat = c.code) ↔ v ≠ 3 := by
  constructor
  · rintro ⟨c, h⟩ rfl
    cases c <;> cases h
  · intro h
    have hcode : v.toNat = 0 ∨ v.toNat = 1 ∨ v.toNat = 2 := by bv_omega
    exact hcode.elim (⟨.black, ·⟩) (·.elim (⟨.white, ·⟩) (⟨.inverse, ·⟩))

/-- Quarter turns are read by their code (R57). -/
theorem decodeRotation_eq_iff {v : BitVec 2} {q : Rotation} : decodeRotation v = q ↔ v.toNat = q.code := by
  revert v
  cases q <;> decide

/-- The boolean of format B is its bit (R58). -/
theorem decide_eq_one_iff {v : BitVec 1} {b : Bool} : decide (v = 1) = b ↔ v.toNat = b.toNat := by
  revert v b
  decide

theorem decodeD_eq_ok_iff {mk : Colour → Int → Int → Int → Instr} {w : OpWord} {i : Instr} :
    decodeD mk w = .ok i ↔ w.extractLsb' 48 6 = 0 ∧ ∃ c : Colour, (w.extractLsb' 54 2).toNat = c.code ∧
      i = mk c (decodeOperand (w.extractLsb' 32 16)) (decodeOperand (w.extractLsb' 16 16))
        (decodeOperand (w.extractLsb' 0 16)) := by
  simp only [← decodeColour_eq_ok_iff, decodeD]
  split
  · simp_all
  · cases decodeColour (w.extractLsb' 54 2) <;> simp_all [eq_comm]

theorem decodeR_eq_ok_iff {mk : Rotation → Instr} {w : OpWord} {i : Instr} :
    decodeR mk w = .ok i ↔
      w.extractLsb' 2 54 = 0 ∧ ∃ q : Rotation, (w.extractLsb' 0 2).toNat = q.code ∧ i = mk q := by
  simp only [← decodeRotation_eq_iff, decodeR]
  split <;> simp_all [eq_comm]

theorem decodeB_eq_ok_iff {mk : Bool → Instr} {w : OpWord} {i : Instr} :
    decodeB mk w = .ok i ↔ w.extractLsb' 1 55 = 0 ∧ ∃ b : Bool, (w.extractLsb' 0 1).toNat = b.toNat ∧ i = mk b := by
  simp only [← decide_eq_one_iff, decodeB]
  split <;> simp_all [eq_comm]

theorem decodeS_eq_ok_iff {mk : Byte → Byte → Instr} {w : OpWord} {i : Instr} :
    decodeS mk w = .ok i ↔ w.extractLsb' 16 40 = 0 ∧ i = mk (w.extractLsb' 8 8) (w.extractLsb' 0 8) := by
  unfold decodeS
  split <;> simp_all [eq_comm]

theorem decodeN_eq_ok_iff {j : Instr} {w : OpWord} {i : Instr} :
    decodeN j w = .ok i ↔ w.extractLsb' 0 56 = 0 ∧ i = j := by
  unfold decodeN
  split <;> simp_all [eq_comm]

/-! ### Which words of a format are legal -/

theorem decodeD_legal_iff {mk : Colour → Int → Int → Int → Instr} {w : OpWord} :
    (∃ i, decodeD mk w = .ok i) ↔ w.extractLsb' 48 6 = 0 ∧ w.extractLsb' 54 2 ≠ 3 := by
  rw [← exists_colour_code_iff]
  simp only [decodeD_eq_ok_iff]
  exact ⟨fun ⟨_, hr, c, hc, _⟩ => ⟨hr, c, hc⟩, fun ⟨hr, c, hc⟩ => ⟨_, hr, c, hc, rfl⟩⟩

theorem decodeR_legal_iff {mk : Rotation → Instr} {w : OpWord} :
    (∃ i, decodeR mk w = .ok i) ↔ w.extractLsb' 2 54 = 0 := by
  simp only [decodeR_eq_ok_iff, ← decodeRotation_eq_iff]
  exact ⟨fun ⟨_, hr, _⟩ => hr, fun hr => ⟨_, hr, _, rfl, rfl⟩⟩

theorem decodeB_legal_iff {mk : Bool → Instr} {w : OpWord} :
    (∃ i, decodeB mk w = .ok i) ↔ w.extractLsb' 1 55 = 0 := by
  simp only [decodeB_eq_ok_iff, ← decide_eq_one_iff]
  exact ⟨fun ⟨_, hr, _⟩ => hr, fun hr => ⟨_, hr, _, rfl, rfl⟩⟩

theorem decodeS_legal_iff {mk : Byte → Byte → Instr} {w : OpWord} :
    (∃ i, decodeS mk w = .ok i) ↔ w.extractLsb' 16 40 = 0 := by
  simp [decodeS_eq_ok_iff]

theorem decodeN_legal_iff {j : Instr} {w : OpWord} : (∃ i, decodeN j w = .ok i) ↔ w.extractLsb' 0 56 = 0 := by
  simp [decodeN_eq_ok_iff]

/-! ## Formats and their words

Where the opcode of `w` is `op`, reading `w` by a format gives exactly the operands of the word of that format that `w`
is. -/

section
variable {op : Nat} {w : OpWord} {i : Instr}

theorem decodeD_iff_wordD {mk : Colour → Int → Int → Int → Instr} (hw : (w.extractLsb' 56 8).toNat = op) :
    decodeD mk w = .ok i ↔ ∃ c len y x, (fitsSigned 16 len && fitsSigned 16 y && fitsSigned 16 x) = true ∧
      wordD op c len y x = w ∧ i = mk c len y x := by
  have hop : op < 256 := hw ▸ (w.extractLsb' 56 8).isLt
  rw [decodeD_eq_ok_iff]
  constructor
  · rintro ⟨hr, c, hc, rfl⟩
    refine ⟨c, _, _, _, by simp [fitsSigned_decodeOperand], ?_, rfl⟩
    rw [eq_comm, eq_wordD_iff hop]
    exact ⟨hw, hr, hc, (ofInt_decodeOperand _).symm, (ofInt_decodeOperand _).symm, (ofInt_decodeOperand _).symm⟩
  · rintro ⟨c, len, y, x, hfit, e, rfl⟩
    simp only [Bool.and_eq_true] at hfit
    obtain ⟨⟨hlen, hy⟩, hx⟩ := hfit
    obtain ⟨-, hr, hc, elen, ey, ex⟩ := (eq_wordD_iff hop).mp e.symm
    rw [elen, ey, ex, decodeOperand_ofInt hlen, decodeOperand_ofInt hy, decodeOperand_ofInt hx]
    exact ⟨hr, c, hc, rfl⟩

theorem decodeR_iff_wordN {mk : Rotation → Instr} (hw : (w.extractLsb' 56 8).toNat = op) :
    decodeR mk w = .ok i ↔ ∃ q : Rotation, wordN op q.code = w ∧ i = mk q := by
  have hop : op < 256 := hw ▸ (w.extractLsb' 56 8).isLt
  simp [decodeR_eq_ok_iff, eq_comm (b := w), eq_wordN_iff (n := 2) (m := 54) rfl hop (Rotation.code_lt _), hw,
    and_assoc]

theorem decodeB_iff_wordN {mk : Bool → Instr} (hw : (w.extractLsb' 56 8).toNat = op) :
    decodeB mk w = .ok i ↔ ∃ b : Bool, wordN op b.toNat = w ∧ i = mk b := by
  have hop : op < 256 := hw ▸ (w.extractLsb' 56 8).isLt
  simp [decodeB_eq_ok_iff, eq_comm (b := w), eq_wordN_iff (n := 1) (m := 55) rfl hop (Bool.toNat_lt _), hw, and_assoc]

theorem decodeS_iff_wordS {mk : Byte → Byte → Instr} (hw : (w.extractLsb' 56 8).toNat = op) :
    decodeS mk w = .ok i ↔ ∃ stop start, wordS op stop start = w ∧ i = mk stop start := by
  have hop : op < 256 := hw ▸ (w.extractLsb' 56 8).isLt
  simp [decodeS_eq_ok_iff, eq_comm (b := w), eq_wordS_iff hop, hw]

theorem decodeN_iff_wordN {j : Instr} (hw : (w.extractLsb' 56 8).toNat = op) :
    decodeN j w = .ok i ↔ wordN op 0 = w ∧ i = j := by
  have hop : op < 256 := hw ▸ (w.extractLsb' 56 8).isLt
  simp [decodeN_eq_ok_iff, eq_comm (b := w), eq_wordN_iff (n := 0) (m := 56) rfl hop Nat.one_pos, hw]

end

section
variable {op : Nat} (hop : op < 256)
include hop

theorem decodeD_wordD (mk : Colour → Int → Int → Int → Instr) (c : Colour) {len y x : Int}
    (h : (fitsSigned 16 len && fitsSigned 16 y && fitsSigned 16 x) = true) :
    decodeD mk (wordD op c len y x) = .ok (mk c len y x) :=
  (decodeD_iff_wordD (opcode_wordD hop c len y x)).mpr ⟨c, len, y, x, h, rfl, rfl⟩

theorem decodeR_wordN (mk : Rotation → Instr) (q : Rotation) : decodeR mk (wordN op q.code) = .ok (mk q) :=
  (decodeR_iff_wordN (opcode_wordN hop q.code_lt)).mpr ⟨q, rfl, rfl⟩

theorem decodeB_wordN (mk : Bool → Instr) (b : Bool) : decodeB mk (wordN op b.toNat) = .ok (mk b) :=
  (decodeB_iff_wordN (opcode_wordN hop (bit_lt_four b))).mpr ⟨b, rfl, rfl⟩

theorem decodeS_wordS (mk : Byte → Byte → Instr) (stop start : Byte) :
    decodeS mk (wordS op stop start) = .ok (mk stop start) :=
  (decodeS_iff_wordS (opcode_wordS hop stop start)).mpr ⟨stop, start, rfl, rfl⟩

theorem decodeN_wordN (i : Instr) : decodeN i (wordN op 0) = .ok i :=
  (decodeN_iff_wordN (opcode_wordN hop (by decide))).mpr ⟨rfl, rfl⟩

end

/-! ## Host words and operations -/

/-- The opcode map is the encoder read backwards, opcode by opcode, each by its format (R63, R69). -/
theorem decodeHost_iff_encode (wc : WireCodes) {w : OpWord} {i : Instr} :
    decodeHost w = .ok i ↔ i.isHost = true ∧ i.wellFormed = true ∧ encode wc i = .host w := by
  constructor
  · intro h
    have hf := decodeHost_wellFormed h
    unfold decodeHost at h
    split at h <;> rename_i ho
    case h_1 | h_2 =>
      obtain ⟨_, _, _, _, -, rfl, rfl⟩ := (decodeD_iff_wordD ho).mp h
      exact ⟨rfl, hf, rfl⟩
    case h_3 =>
      obtain ⟨_, rfl, rfl⟩ := (decodeR_iff_wordN ho).mp h
      exact ⟨rfl, hf, rfl⟩
    case h_4 | h_5 | h_6 | h_14 =>
      obtain ⟨rfl, rfl⟩ := (decodeN_iff_wordN ho).mp h
      exact ⟨rfl, hf, rfl⟩
    case h_7 | h_8 =>
      obtain ⟨_, rfl, rfl⟩ := (decodeB_iff_wordN ho).mp h
      exact ⟨rfl, hf, rfl⟩
    case h_9 | h_10 | h_11 | h_12 | h_13 =>
      obtain ⟨_, _, rfl, rfl⟩ := (decodeS_iff_wordS ho).mp h
      exact ⟨rfl, hf, rfl⟩
    case h_15 => cases h
  · rintro ⟨hi, hf, e⟩
    cases i <;> cases hi <;> cases e
    case hrun.refl.refl | vrun.refl.refl =>
      simp [decodeHost, -BitVec.extractLsb'_toNat, opcode_wordD, decodeD_wordD _ _ _ hf]
    case setrot.refl.refl q =>
      simp [decodeHost, -BitVec.extractLsb'_toNat, opcode_wordN, q.code_lt, decodeR_wordN]
    case startup.refl.refl | display.refl.refl | shutdown.refl.refl | scrstop.refl.refl =>
      simp [decodeHost, -BitVec.extractLsb'_toNat, opcode_wordN, decodeN_wordN]
    case endisp.refl.refl b | invdisp.refl.refl b =>
      simp [decodeHost, -BitVec.extractLsb'_toNat, opcode_wordN, bit_lt_four b, decodeB_wordN]
    all_goals simp [decodeHost, -BitVec.extractLsb'_toNat, opcode_wordS, decodeS_wordS]

/-! ## The legal words -/

open Machine

/-- A row of a format with operands in the `n` low bits only (30_encoding.md R57 to R60). -/
def plainRow (op n : Nat) : OpWord × OpWord × Bool := (wordN op 0, BitVec.allOnes 64 <<< n, false)

/-- A row of format D (R56): the mask has the opcode and the reserved field. -/
def runRow (op : Nat) : OpWord × OpWord × Bool := (wordD op .black 0 0 0, 0xFF3F000000000000, true)

/-- The rows as spec/opcode_table.json has them, each by its opcode and its operand bits (R63). -/
theorem hostRows_eq : hostRows = [runRow 0x01, runRow 0x02, plainRow 0x03 2, plainRow 0x10 0, plainRow 0x11 0,
    plainRow 0x12 0, plainRow 0x13 1, plainRow 0x14 1, plainRow 0x20 16, plainRow 0x21 16, plainRow 0x22 16,
    plainRow 0x23 16, plainRow 0x24 16, plainRow 0x25 0] := by decide

/-- The word agrees with the row's match under its mask, and with the restriction of format D (R63, R64). -/
def Admits (w : OpWord) (r : OpWord × OpWord × Bool) : Prop :=
  w &&& r.2.1 = r.1 ∧ (r.2.2 = true → w.extractLsb' 54 2 ≠ 3)

/-- The mask of such a row clears the `n` low bits, so the row asks for the opcode and a reserved field of 0. -/
theorem admits_plainRow_iff {n m : Nat} (h : n + m = 56) {op : Nat} (hop : op < 256) {w : OpWord} :
    Admits w (plainRow op n) ↔ (w.extractLsb' 56 8).toNat = op ∧ w.extractLsb' n m = 0 := by
  have hkept : (w &&& BitVec.allOnes 64 <<< n).toNat = w.toNat / 2 ^ n * 2 ^ n := by
    rw [← BitVec.shiftLeft_ushiftRight, BitVec.toNat_shiftLeft, BitVec.toNat_ushiftRight, Nat.shiftLeft_eq,
      Nat.shiftRight_eq_div_pow, Nat.mod_eq_of_lt ((Nat.div_mul_le_self _ _).trans_lt w.isLt)]
  have hopcode : ∀ v : Nat, v / 2 ^ 56 = v / 2 ^ n / 2 ^ m := fun v => by
    rw [Nat.div_div_eq_div_mul, ← pow_add, h]
  have hn : 0 < 2 ^ n := by positivity
  simp only [Admits, plainRow, eq_wordN_iff h hop hn, ← BitVec.toNat_inj, BitVec.extractLsb'_toNat,
    Nat.shiftRight_eq_div_pow, hkept, hopcode, Nat.mul_div_cancel _ hn]
  simp

theorem admits_runRow_iff {op : Nat} (hop : op < 256) {w : OpWord} :
    Admits w (runRow op) ↔
      (w.extractLsb' 56 8).toNat = op ∧ w.extractLsb' 48 6 = 0 ∧ w.extractLsb' 54 2 ≠ 3 := by
  have hopcode : (0xFF3F000000000000 : OpWord).extractLsb' 56 8 = BitVec.allOnes 8 := by decide
  have hreserved : (0xFF3F000000000000 : OpWord).extractLsb' 48 6 = BitVec.allOnes 6 := by decide
  simp only [Admits, runRow, eq_wordD_iff hop, BitVec.extractLsb'_and, hopcode, hreserved, BitVec.and_allOnes]
  simp [Colour.code, and_assoc]

/-- Each opcode has one row, whose mask is the opcode and the reserved field of the format that the opcode is read by
(R63, R64). -/
theorem decodeHost_legal_iff {w : OpWord} : (∃ i, decodeHost w = .ok i) ↔ ∃ r ∈ hostRows, Admits w r := by
  simp only [hostRows_eq, List.exists_mem_cons_iff, List.not_mem_nil, false_and, exists_false, or_false,
    admits_runRow_iff, admits_plainRow_iff (n := 0) (m := 56) rfl, admits_plainRow_iff (n := 1) (m := 55) rfl,
    admits_plainRow_iff (n := 2) (m := 54) rfl, admits_plainRow_iff (n := 16) (m := 40) rfl, Nat.reduceLT]
  unfold decodeHost
  split <;> simp_all [-BitVec.extractLsb'_toNat, decodeD_legal_iff, decodeR_legal_iff, decodeB_legal_iff,
    decodeS_legal_iff, decodeN_legal_iff]

/-! ## Wire commands -/

/-- What each code of the record begins, in the order of `decodeWire` (R74 to R99). -/
def wireReaders (wc : WireCodes) (rest : List Byte) : List (Byte × Except DecodeError (Instr × List Byte)) :=
  [(wc.displayOff, wire0 .wDisplayOff rest), (wc.displayOn, wire0 .wDisplayOn rest),
   (wc.setClockDiv, wire1 .wSetClockDiv rest), (wc.setMultiplex, wire1 .wSetMultiplex rest),
   (wc.memoryMode, wire1 .wMemoryMode rest), (wc.segRemap, wire0 .wSegRemap rest),
   (wc.comScanDec, wire0 .wComScanDec rest), (wc.setVcomDeselect, wire1 .wSetVcomDeselect rest),
   (wc.chargePump, wire1 .wChargePump rest), (wc.setDisplayOffset, wire1 .wSetDisplayOffset rest),
   (wc.setComPins, wire1 .wSetComPins rest), (wc.setContrast, wire1 .wSetContrast rest),
   (wc.setPrecharge, wire1 .wSetPrecharge rest), (wc.displayAllOnResume, wire0 .wDisplayAllOnResume rest),
   (wc.normalDisplay, wire0 .wNormalDisplay rest), (wc.invertDisplay, wire0 .wInvertDisplay rest),
   (wc.deactivateScroll, wire0 .wDeactivateScroll rest), (wc.activateScroll, wire0 .wActivateScroll rest),
   (wc.setVerticalScrollArea, wire2 .wSetVerticalScrollArea rest), (wc.rightScroll, wire7 .wRightScroll rest),
   (wc.leftScroll, wire7 .wLeftScroll rest), (wc.vertRightScroll, wire7 .wVertRightScroll rest),
   (wc.vertLeftScroll, wire7 .wVertLeftScroll rest), (wc.columnAddr, wire2 .wColumnAddr rest),
   (wc.pageAddr, wire2 .wPageAddr rest)]

/-- The entry of a key in a chain of tests, `d` where there is none. -/
def firstEntry {α : Type} (k : Byte) (d : α) : List (Byte × α) → α
  | [] => d
  | (c, r) :: l => if k = c then r else firstEntry k d l

/-- Where no two keys are equal, the chain finds every entry and not only the first. -/
theorem firstEntry_of_mem {α : Type} {k : Byte} {r : α} (d : α) {l : List (Byte × α)} (hl : (l.map Prod.fst).Nodup)
    (h : (k, r) ∈ l) : firstEntry k d l = r := by
  induction l with
  | nil => cases h
  | cons e l ih =>
    obtain ⟨hne, hl⟩ := List.nodup_cons.mp hl
    rcases List.mem_cons.mp h with rfl | h
    · exact if_pos rfl
    · have hk : k ≠ e.1 := fun hk => hne (hk ▸ List.mem_map_of_mem h)
      exact (if_neg hk).trans (ih hl h)

theorem firstEntry_of_not_mem {α : Type} {k : Byte} {d : α} {l : List (Byte × α)} (h : k ∉ l.map Prod.fst) :
    firstEntry k d l = d := by
  induction l with
  | nil => rfl
  | cons e l ih =>
    exact (if_neg (List.ne_of_not_mem_cons h)).trans (ih (List.not_mem_of_not_mem_cons h))

/-- The chain tests the codes of the record in its order. -/
theorem wireReaders_codes (wc : WireCodes) (rest : List Byte) : (wireReaders wc rest).map Prod.fst = wc.codes := rfl

/-- `decodeWire` is that chain, with the start-line range after it (log entry 31). -/
theorem decodeWire_cons (wc : WireCodes) (k : Byte) (rest : List Byte) :
    decodeWire wc (k :: rest) = firstEntry k
      (if k &&& 0xC0#8 = wc.setStartLine &&& 0xC0#8 then wire0 (.wSetStartLine (k.extractLsb' 0 6)) rest
        else .error .unknownWireCode) (wireReaders wc rest) := rfl

/-- A line in the low six bits leaves the code in the start-line range (R84). -/
theorem startLine_range (b : Byte) (l : BitVec 6) : (b ||| l.setWidth 8) &&& 0xC0#8 = b &&& 0xC0#8 := by
  have hl : l.setWidth 8 &&& 0xC0#8 = 0#8 := by revert l; decide
  rw [BitVec.and_or_distrib_right, hl, BitVec.or_zero]

/-- The line is read back from a base that leaves the low six bits free (R84). -/
theorem startLine_low_bits {b : Byte} (hb : b &&& 0x3F#8 = 0#8) (l : BitVec 6) :
    (b ||| l.setWidth 8).extractLsb' 0 6 = l := by
  have hfree : b.extractLsb' 0 6 = 0#6 := calc
    b.extractLsb' 0 6 = b.extractLsb' 0 6 &&& BitVec.allOnes 6 := BitVec.and_allOnes.symm
    _ = (b &&& 0x3F#8).extractLsb' 0 6 := by rw [BitVec.extractLsb'_and]; rfl
    _ = 0#6 := by rw [hb]; rfl
  have hl : (l.setWidth 8).extractLsb' 0 6 = l := by revert l; decide
  rw [BitVec.extractLsb'_or, hfree, hl, BitVec.zero_or]

namespace WireCodes.Decodable
variable {wc : WireCodes} (h : wc.Decodable)
include h

/-- Where the codes tell the commands apart, each begins its own command. -/
theorem decodeWireWord_of_mem {k : Byte} {rest : List Byte} {i : Instr}
    (hk : (k, .ok (i, [])) ∈ wireReaders wc rest) : decodeWireWord wc (k :: rest) = .ok i := by
  obtain ⟨hnodup, -, -⟩ := h
  simp only [decodeWireWord, decodeWire_cons, firstEntry_of_mem _ (wireReaders_codes wc rest ▸ hnodup) hk]

/-- Every line is read back from the low bits of its code, which is no other command's (R84). -/
theorem decodeWireWord_startLine (l : BitVec 6) :
    decodeWireWord wc [wc.setStartLine ||| l.setWidth 8] = .ok (.wSetStartLine l) := by
  obtain ⟨-, hrange, hfree⟩ := h
  have hbase := startLine_range wc.setStartLine l
  have hline := startLine_low_bits hfree l
  have hother : wc.setStartLine ||| l.setWidth 8 ∉ (wireReaders wc []).map Prod.fst := fun hk => hrange _ hk hbase
  simp only [decodeWireWord, decodeWire_cons, firstEntry_of_not_mem hother, if_pos hbase, hline, wire0]

end WireCodes.Decodable

/-! ## Wire commands on their own -/

/-- A wire command on its own is its transaction and nothing else (log entry 8). -/
theorem exec_wire {i : Instr} (hi : i.isHost = false) (s : State) : exec i s = .next (s.issueWire i) := by
  cases i <;> cases hi <;> rfl

theorem exec_wire_ok {i : Instr} (hi : i.isHost = false) {s : State} (h : s.transport.answer 0 = .ok) :
    exec i s = .next ((s.sent [wireTxn s.cfg.wc i]).deliver .ok) := by
  rw [exec_wire hi, State.issueWire_ok h]

/-! ## The statements -/

theorem encode_of_isHost {i : Instr} (wc : WireCodes) (hi : i.isHost = true) : ∃ w, encode wc i = .host w := by
  cases i <;> cases hi <;> exact ⟨_, rfl⟩

/-- Settles O4: a host operation has a host word, which the opcode map reads back. -/
theorem hostDecodeInvertsEncode : Obligations.HostDecodeInvertsEncode := by
  unfold Obligations.HostDecodeInvertsEncode
  intro p i hi hf
  obtain ⟨w, e⟩ := encode_of_isHost p.wc hi
  rw [e]
  exact (decodeHost_iff_encode p.wc).mpr ⟨hi, hf, e⟩

/-- Settles O5: every code but the start line's stands in the chain of codes, and a start-line byte in none of it. -/
theorem wireDecodeInvertsEncode : Obligations.WireDecodeInvertsEncode := by
  unfold Obligations.WireDecodeInvertsEncode
  intro p h i hi
  cases i <;> cases hi
  case wSetStartLine.refl l => exact h.decodeWireWord_startLine l
  all_goals exact h.decodeWireWord_of_mem (by simp [wireReaders, wire0, wire1, wire2, wire7])

/-- Settles O6: the other direction of the same equivalence. -/
theorem hostEncodeInvertsDecode : Obligations.HostEncodeInvertsDecode := by
  unfold Obligations.HostEncodeInvertsDecode
  intro p w i h
  exact (decodeHost_iff_encode p.wc).mp h

/-- Settles O7, opcode by opcode. -/
theorem legalWordsAreTheTablesRows : Obligations.LegalWordsAreTheTablesRows := by
  unfold Obligations.LegalWordsAreTheTablesRows
  intro w
  exact decodeHost_legal_iff

/-- Settles O8: the decoder computes each of the words written out. -/
theorem writtenOutWordsDecode : Obligations.WrittenOutWordsDecode := by
  unfold Obligations.WrittenOutWordsDecode
  decide

/-- Settles O51: each is one case of `exec_wire_ok`, and its transaction is that of its one or two bytes. -/
theorem shortWireCommands : Obligations.ShortWireCommands := by
  unfold Obligations.ShortWireCommands
  intro s a h
  have run {i : Instr} (hi : i.isHost = false) := exec_wire_ok hi h
  exact ⟨run rfl, run rfl, run rfl, run rfl, fun _ => run rfl, run rfl, run rfl, run rfl, run rfl, run rfl, run rfl,
    run rfl, run rfl, run rfl, run rfl, run rfl, run rfl, run rfl, run rfl⟩

/-- Settles O52 likewise, with the parameter bytes in order. -/
theorem longWireCommands : Obligations.LongWireCommands := by
  unfold Obligations.LongWireCommands
  intro s a b c d e f g h
  have run {i : Instr} (hi : i.isHost = false) := exec_wire_ok hi h
  exact ⟨run rfl, run rfl, run rfl, run rfl, run rfl, run rfl, run rfl⟩

end Sys2Proof
end

section
/-! Proofs of the statements on the framebuffer's two primitives (40_framebuffer.md): the colour operation, the clipped
run and its box, runs in another order, a run drawn again, and the byte-level form of FB_VRUN. -/

namespace Sys2Proof

/-! ## The colour operation -/

theorem bitmask_getLsbD_eq (y k : Nat) : (bitmask y).getLsbD k = decide (k = y % 8) := by
  by_cases hk : k < 8
  · exact bitmask_getLsbD y k hk
  · rw [BitVec.getLsbD_of_ge _ _ (by omega), eq_comm, decide_eq_false_iff_not]
    omega

/-- A bit outside the mask keeps its value (40_framebuffer.md R101). -/
theorem Colour.apply_getLsbD_of_unmasked (c : Colour) (b : Byte) {m : Byte} {k : Nat} (h : m.getLsbD k = false) :
    (c.apply b m).getLsbD k = b.getLsbD k := by
  by_cases hk : k < 8
  · rw [c.apply_getLsbD b m k hk, h, if_neg Bool.false_ne_true]
  · rw [BitVec.getLsbD_of_ge _ _ (by omega), BitVec.getLsbD_of_ge _ _ (by omega)]

/-- Settles O13: the three colours by definition, and the masks bit by bit. -/
theorem colourOperation : Obligations.ColourOperation := by
  unfold Obligations.ColourOperation
  intro b m
  exact ⟨rfl, rfl, rfl, fun c _ h => c.apply_getLsbD_of_unmasked b h, bitmask_getLsbD_eq⟩

/-- INVERSE drawn twice is nothing drawn (R109). -/
theorem Colour.bit_inverse_bit (b : Bool) : Colour.inverse.bit (Colour.inverse.bit b) = b := Bool.not_not b

/-- WHITE and BLACK drawn twice are as drawn once (R109). -/
theorem Colour.bit_bit {c : Colour} (h : c ≠ .inverse) (b : Bool) : c.bit (c.bit b) = c.bit b := by
  cases c with
  | black => rfl
  | white => rfl
  | inverse => exact absurd rfl h

/-! ## The mask tables (R104) -/

theorem vlinePreMask_getLsbD : ∀ o < 8, ∀ j < 8, (vlinePreMask o).getLsbD j = decide (o ≤ j) := by decide

theorem vlinePostMask_getLsbD : ∀ n < 8, ∀ j < 8, (vlinePostMask n).getLsbD j = decide (j < n) := by decide

/-- The leading mask has the rows from the offset on, `n` of them or all down to the end of the page (R105). -/
theorem leadMask_getLsbD {o n j : Nat} (ho : o < 8) (hj : j < 8) :
    (leadMask o n).getLsbD j = decide (o ≤ j ∧ j < o + min n (8 - o)) := by
  unfold leadMask
  split
  · rw [BitVec.getLsbD_and, vlinePreMask_getLsbD o ho j hj, vlinePostMask_getLsbD _ (by omega) j hj,
      ← Bool.decide_and, decide_eq_decide]
    omega
  · rw [vlinePreMask_getLsbD o ho j hj, decide_eq_decide]
    omega

/-- WIDTH bytes on is the same column one page down (20_memory.md R35). -/
theorem Geometry.index_add_pages (g : Geometry) (x : Nat) {y y' j : Nat} (h : y' / 8 = y / 8 + j) :
    g.index x y + j * g.width = g.index x y' := by
  rw [Geometry.index, Geometry.index, h, Nat.add_mul, Nat.add_assoc]

namespace Machine

/-! ## The clipped run and its box -/

/-- The box of the clipped run, `none` where it is empty (40_framebuffer.md R102, R103). -/
def clippedBox (g : Geometry) (k : RunKind) (x y len : Int) : Option Window :=
  match k with
  | .horizontal =>
    if 0 ≤ y ∧ y < g.height ∧ max x 0 < min (x + len) g.width then some ⟨max x 0, y, min (x + len) g.width - 1, y⟩
    else none
  | .vertical =>
    if 0 ≤ x ∧ x < g.width ∧ max y 0 < min (y + len) g.height then some ⟨x, max y 0, x, min (y + len) g.height - 1⟩
    else none

/-- DW after a run with this box: DW_EXPAND, or nothing where there is none (R108). -/
def Window.join (w : Window) : Option Window → Window
  | none => w
  | some b => w.expand b.x1 b.y1 b.x2 b.y2

/-- FB_HRUN in one equation (R102). -/
theorem State.fbHrun_eq_ite (s : State) (x y len : Int) (c : Colour) :
    s.fbHrun x y len c =
      if 0 ≤ y ∧ y < s.cfg.geometry.height ∧ max x 0 < min (x + len) s.cfg.geometry.width then
        { s with
          fb := hrunCells s.cfg c (max x 0).toNat y.toNat (min (x + len) s.cfg.geometry.width - max x 0).toNat s.fb
          dw := s.dw.expand (max x 0) y (min (x + len) s.cfg.geometry.width - 1) y }
      else s := by
  unfold State.fbHrun clipLo clipHi
  dsimp only
  split
  · rw [if_neg (by omega)]
  · split
    · rw [if_neg (by omega)]
    · rw [if_pos (by omega)]

/-- FB_VRUN in one equation (R103). -/
theorem State.fbVrun_eq_ite (s : State) (x y len : Int) (c : Colour) :
    s.fbVrun x y len c =
      if 0 ≤ x ∧ x < s.cfg.geometry.width ∧ max y 0 < min (y + len) s.cfg.geometry.height then
        { s with
          fb := vrunCells s.cfg c x.toNat (max y 0).toNat (min (y + len) s.cfg.geometry.height - max y 0).toNat s.fb
          dw := s.dw.expand x (max y 0) x (min (y + len) s.cfg.geometry.height - 1) }
      else s := by
  unfold State.fbVrun clipLo clipHi
  dsimp only
  split
  · rw [if_neg (by omega)]
  · split
    · rw [if_neg (by omega)]
    · rw [if_pos (by omega)]

/-- A primitive expands DW by the box of its clipped run (R108). -/
theorem State.runPrim_dw (s : State) (k : RunKind) (x y len : Int) (c : Colour) :
    (s.runPrim k x y len c).dw = s.dw.join (clippedBox s.cfg.geometry k x y len) := by
  cases k
  case horizontal =>
    rw [State.runPrim, State.fbHrun_eq_ite, clippedBox]
    split <;> rfl
  case vertical =>
    rw [State.runPrim, State.fbVrun_eq_ite, clippedBox]
    split <;> rfl

/-- A primitive writes FB and DW alone. -/
theorem State.runPrim_frame_eq (s : State) (k : RunKind) (x y len : Int) (c : Colour) :
    s.runPrim k x y len c = { s with fb := (s.runPrim k x y len c).fb, dw := (s.runPrim k x y len c).dw } := by
  obtain ⟨_, _, e⟩ := s.runPrim_frame k x y len c
  rw [e]

/-- A primitive paints exactly its clipped run (R102, R103, R107). -/
theorem State.runPrim_paints {s : State} (h : s.fb.rising = true) (k : RunKind) (x y len : Int) (c : Colour) :
    Paints c (Covers s.cfg.geometry k x y len) s (s.runPrim k x y len c) := by
  refine ⟨fun px py hx => ?_, fun i => s.fbRead_runPrim_other k x y len c⟩
  cases k
  case horizontal =>
    rw [State.runPrim, State.fbHrun_eq_ite]
    split <;> dsimp only [Covers]
    · rw [pixel_hrunCells h c (by omega) hx]
      exact ⟨fun hc => if_pos (by omega), fun hc => if_neg (by omega)⟩
    · exact ⟨fun hc => by omega, fun _ => rfl⟩
  case vertical =>
    rw [State.runPrim, State.fbVrun_eq_ite]
    split <;> dsimp only [Covers]
    · rw [pixel_vrunCells h c (by omega) hx]
      exact ⟨fun hc => if_pos (by omega), fun hc => if_neg (by omega)⟩
    · exact ⟨fun hc => by omega, fun _ => rfl⟩

/-- A run with no pixel in the buffer does nothing (R107): what is drawn has its first pixel there. -/
theorem State.runPrim_of_not_covers (s : State) {k : RunKind} {x y len : Int} (c : Colour)
    (h : ∀ px py, ¬ Covers s.cfg.geometry k x y len px py) : s.runPrim k x y len c = s := by
  cases k
  case horizontal =>
    rcases s.fbHrun_cases x y len c with e | ⟨xa, xe, yy, _, _, _, _, _, _, -⟩
    · exact e
    · exact absurd ⟨by omega, by omega, by omega, by omega, by omega⟩ (h xa yy)
  case vertical =>
    rcases s.fbVrun_cases x y len c with e | ⟨ya, ye, xx, _, _, _, _, _, _, -⟩
    · exact e
    · exact absurd ⟨by omega, by omega, by omega, by omega, by omega⟩ (h xx ya)

theorem not_covers_of_length_nonpos {g : Geometry} {k : RunKind} {x y len : Int} (h : len ≤ 0) (px py : Nat) :
    ¬ Covers g k x y len px py := by
  unfold Covers
  cases k <;> dsimp only <;> omega

theorem State.FbWf.rising {s : State} (h : s.FbWf) : s.fb.rising = true := (Memory.wf_iff.mp h).1

/-- Settles O15: FB_HRUN is the primitive of its kind. -/
theorem horizontalPrimitive : Obligations.HorizontalPrimitive := by
  unfold Obligations.HorizontalPrimitive
  intro s x y len c h
  exact ⟨State.runPrim_paints h.rising .horizontal x y len c,
    (s.runPrim_dw .horizontal x y len c).trans (apply_ite s.dw.join _ _ _), s.runPrim_frame_eq .horizontal x y len c⟩

/-- Settles O16: FB_VRUN is the primitive of its kind. -/
theorem verticalPrimitive : Obligations.VerticalPrimitive := by
  unfold Obligations.VerticalPrimitive
  intro s x y len c h
  exact ⟨State.runPrim_paints h.rising .vertical x y len c,
    (s.runPrim_dw .vertical x y len c).trans (apply_ite s.dw.join _ _ _), s.runPrim_frame_eq .vertical x y len c⟩

/-- Settles O18: a run of no length has no pixel in the buffer either. -/
theorem emptyRunsChangeNothing : Obligations.EmptyRunsChangeNothing := by
  unfold Obligations.EmptyRunsChangeNothing
  intro s k x y len c
  refine ⟨fun h => State.runPrim_paints h.rising k x y len c, fun h => s.runPrim_of_not_covers c ?_⟩
  exact h.elim not_covers_of_length_nonpos id

/-! ## The order of the calls -/

/-- Boxes are added to DW in any order (41_dirty_window.md R113). -/
theorem Window.join_right_comm (w : Window) (a b : Option Window) : (w.join a).join b = (w.join b).join a := by
  cases a <;> cases b <;> simp [Window.join, Window.expand, min_right_comm, max_right_comm]

/-- A box added twice is as added once. -/
theorem Window.join_join_self (w : Window) (b : Option Window) : (w.join b).join b = w.join b := by
  cases b <;> simp [Window.join, Window.expand]

theorem State.runCalls_cfg (cs : List PrimCall) (s : State) : (s.runCalls cs).cfg = s.cfg := by
  induction cs generalizing s with
  | nil => rfl
  | cons c cs ih => exact (ih _).trans (s.runPrim_cfg _ _ _ _ _)

/-- DW after a list of calls is the boxes of the calls added one after the other (R111). -/
theorem State.runCalls_dw (cs : List PrimCall) (s : State) :
    (s.runCalls cs).dw =
      cs.foldl (fun w c => w.join (clippedBox s.cfg.geometry c.kind c.x c.y c.length)) s.dw := by
  induction cs generalizing s with
  | nil => rfl
  | cons c cs ih =>
    refine (ih (s.runPrim c.kind c.x c.y c.length c.colour)).trans ?_
    rw [State.runPrim_dw, State.runPrim_cfg, List.foldl_cons]

/-- Settles O23: the calls add their boxes, which commute. -/
theorem windowForgetsTheDrawingOrder : Obligations.WindowForgetsTheDrawingOrder := by
  unfold Obligations.WindowForgetsTheDrawingOrder
  intro s cs ds h
  rw [State.runCalls_dw, State.runCalls_dw]
  exact h.foldl_eq' (fun _ _ _ _ _ => Window.join_right_comm _ _ _) _

/-! ## The same run again -/

/-- A byte's bit is the pixel the inverse decoder gives for it (20_memory.md R38). -/
theorem pixel_pixelOf (p : Params) (m : Memory) (i : Nat) {k : Nat} (hk : k < 8) :
    pixel p m (p.geometry.pixelOf i k).1 (p.geometry.pixelOf i k).2 = (fbRead p m i).getLsbD k := by
  have hbit : (p.geometry.pixelOf i k).2 % 8 = k := by rw [Geometry.pixelOf]; omega
  rw [pixel, Geometry.index_pixelOf _ _ hk, hbit]

/-- Two canonical framebuffers with the same pixels, pad bits included, are the same list. -/
theorem fb_ext_pixel {p : Params} {size : Nat} {m n : Memory} (hm : Memory.wf size (fbDefault p) m = true)
    (hn : Memory.wf size (fbDefault p) n = true)
    (h : ∀ px py, px < p.geometry.width → pixel p m px py = pixel p n px py) : m = n := by
  refine fb_ext hm hn fun i => BitVec.eq_of_getLsbD_eq fun k hk => ?_
  rw [← pixel_pixelOf p m i hk, ← pixel_pixelOf p n i hk]
  exact h _ _ (p.geometry.pixelOf_fst_lt i k)

/-- A primitive keeps FB canonical, whatever DW is: FB does not depend on it. -/
theorem State.FbWf.runPrim {s : State} (h : s.FbWf) (k : RunKind) (x y len : Int) (c : Colour) :
    (s.runPrim k x y len c).FbWf := by
  have hkeep := (State.runPrim_keeps (s := s.resetWindow) h (.inl rfl) k x y len c).1
  rw [State.FbWf, State.runPrim_cfg] at hkeep ⊢
  rwa [State.runPrim_fb_congr (s := s) (t := s.resetWindow) rfl rfl]

theorem State.FbWf.runCalls {s : State} (h : s.FbWf) (cs : List PrimCall) : (s.runCalls cs).FbWf := by
  induction cs generalizing s with
  | nil => exact h
  | cons c cs ih => exact ih (h.runPrim _ _ _ _ _)

/-- Two states of one block with FB canonical and the same pixels hold the same FB. -/
theorem State.FbWf.fb_eq {p : Params} {s t : State} (hs : s.FbWf) (ht : t.FbWf) (hsp : s.cfg = p) (htp : t.cfg = p)
    (h : ∀ px py, px < p.geometry.width → pixel p s.fb px py = pixel p t.fb px py) : s.fb = t.fb := by
  rw [State.FbWf, hsp] at hs
  rw [State.FbWf, htp] at ht
  exact fb_ext_pixel hs ht h

/-- A run drawn twice paints its pixels by the colour operation done twice (R109). -/
theorem State.FbWf.pixel_runPrim_twice {s : State} (h : s.FbWf) (k : RunKind) (x y len : Int) (c : Colour)
    {px py : Nat} (hx : px < s.cfg.geometry.width) :
    (Covers s.cfg.geometry k x y len px py →
      pixel s.cfg ((s.runPrim k x y len c).runPrim k x y len c).fb px py = c.bit (c.bit (pixel s.cfg s.fb px py))) ∧
    (¬ Covers s.cfg.geometry k x y len px py →
      pixel s.cfg ((s.runPrim k x y len c).runPrim k x y len c).fb px py = pixel s.cfg s.fb px py) := by
  have honce := (State.runPrim_paints h.rising k x y len c).1 px py hx
  have hagain := (State.runPrim_paints (h.runPrim k x y len c).rising k x y len c).1 px py
  rw [State.runPrim_cfg] at hagain
  exact ⟨fun hc => by rw [(hagain hx).1 hc, honce.1 hc], fun hc => by rw [(hagain hx).2 hc, honce.2 hc]⟩

/-- INVERSE drawn twice gives FB back (R109). -/
theorem State.FbWf.inverse_twice_fb {s : State} (h : s.FbWf) (k : RunKind) (x y len : Int) :
    ((s.runPrim k x y len .inverse).runPrim k x y len .inverse).fb = s.fb := by
  refine ((h.runPrim ..).runPrim ..).fb_eq h ((State.runPrim_cfg ..).trans (State.runPrim_cfg ..)) rfl
    fun px py hx => ?_
  obtain ⟨hin, hout⟩ := h.pixel_runPrim_twice k x y len .inverse (py := py) hx
  by_cases hc : Covers s.cfg.geometry k x y len px py
  · rw [hin hc, Colour.bit_inverse_bit]
  · exact hout hc

/-- WHITE and BLACK drawn twice leave FB as drawn once (R109). -/
theorem State.FbWf.runPrim_twice_fb {s : State} (h : s.FbWf) (k : RunKind) (x y len : Int) {c : Colour}
    (hcolour : c ≠ .inverse) :
    ((s.runPrim k x y len c).runPrim k x y len c).fb = (s.runPrim k x y len c).fb := by
  refine ((h.runPrim ..).runPrim ..).fb_eq (h.runPrim ..) ((State.runPrim_cfg ..).trans (State.runPrim_cfg ..))
    (State.runPrim_cfg ..) fun px py hx => ?_
  obtain ⟨hin, hout⟩ := h.pixel_runPrim_twice k x y len c (py := py) hx
  have honce := (State.runPrim_paints h.rising k x y len c).1 px py hx
  by_cases hc : Covers s.cfg.geometry k x y len px py
  · rw [hin hc, honce.1 hc, Colour.bit_bit hcolour]
  · rw [hout hc, honce.2 hc]

/-- What is drawn after any calls: each pixel of the run takes the colour (R109, R110). -/
theorem State.FbWf.pixel_runCalls_runPrim {s : State} (h : s.FbWf) (cs : List PrimCall) {k : RunKind} {x y len : Int}
    (c : Colour) {px py : Nat} (hc : Covers s.cfg.geometry k x y len px py) :
    pixel s.cfg ((s.runCalls cs).runPrim k x y len c).fb px py = c.bit (pixel s.cfg (s.runCalls cs).fb px py) := by
  have hpaint := (State.runPrim_paints (h.runCalls cs).rising k x y len c).1 px py
  rw [State.runCalls_cfg] at hpaint
  exact (hpaint hc.1).1 hc

/-- A run drawn twice leaves DW as drawn once (R110). -/
theorem State.runPrim_twice_dw (s : State) (k : RunKind) (x y len : Int) (c : Colour) :
    ((s.runPrim k x y len c).runPrim k x y len c).dw = (s.runPrim k x y len c).dw := by
  rw [State.runPrim_dw, State.runPrim_dw, State.runPrim_cfg, Window.join_join_self]

/-- Settles O19: the last colour on a pixel decides, and twice the same run is twice the same colour operation and the
same box. -/
theorem toggleParityAndIdempotence : Obligations.ToggleParityAndIdempotence := by
  unfold Obligations.ToggleParityAndIdempotence
  intro s cs k x y len h
  exact ⟨fun px py hc => ⟨h.pixel_runCalls_runPrim cs .white hc, h.pixel_runCalls_runPrim cs .black hc⟩,
    h.inverse_twice_fb k x y len,
    fun c => ⟨s.runPrim_twice_dw k x y len c, h.runPrim_twice_fb k x y len⟩⟩

/-! ## The byte-level form of FB_VRUN -/

/-- From `m` to `m'` exactly `n` rows of column `x` from row `y` on take the colour, and FB stays canonical. -/
structure PaintsColumn (p : Params) (c : Colour) (x y n : Nat) (m m' : Memory) : Prop where
  wf : Memory.wf p.geometry.fbSize (fbDefault p) m' = true
  pixel_eq : ∀ px py, px < p.geometry.width →
    pixel p m' px py = if px = x ∧ y ≤ py ∧ py < y + n then c.bit (pixel p m px py) else pixel p m px py

namespace PaintsColumn

variable {p : Params} {c : Colour} {x y n k : Nat} {m m' m'' : Memory}

/-- Where the rows are given, one memory alone is so painted. -/
theorem unique (h : PaintsColumn p c x y n m m') (h' : PaintsColumn p c x y n m m'') : m' = m'' :=
  fb_ext_pixel h.wf h'.wf fun px py hx => by rw [h.pixel_eq px py hx, h'.pixel_eq px py hx]

theorem refl (h : Memory.wf p.geometry.fbSize (fbDefault p) m = true) : PaintsColumn p c x y 0 m m :=
  ⟨h, fun _ _ _ => (if_neg (by omega)).symm⟩

/-- Rows painted one stretch after the other. -/
theorem trans (h : PaintsColumn p c x y n m m') (h' : PaintsColumn p c x (y + n) k m' m'') :
    PaintsColumn p c x y (n + k) m m'' := by
  refine ⟨h'.wf, fun px py hx => ?_⟩
  rw [h'.pixel_eq px py hx, h.pixel_eq px py hx]
  by_cases hlater : px = x ∧ y + n ≤ py ∧ py < y + n + k
  · rw [if_pos hlater, if_neg (by omega), if_pos (by omega)]
  · rw [if_neg hlater]
    exact if_congr (by omega) rfl rfl

end PaintsColumn

section
variable {p : Params} (c : Colour) {x y n : Nat} {m : Memory}
  (h : Memory.wf p.geometry.fbSize (fbDefault p) m = true) (hx : x < p.geometry.width)
include h hx

/-- The pixel-level loop (40_framebuffer.md R103). -/
theorem vrunCells_paintsColumn (hy : y + n ≤ p.geometry.height) :
    PaintsColumn p c x y n m (vrunCells p c x y n m) :=
  ⟨wf_vrunCells c h hx hy, fun _ _ hx' => pixel_vrunCells (Memory.wf_iff.mp h).1 c hx hx'⟩

/-- The read-modify-write of one byte paints the rows of its mask, here `n` from row `y` on (R101, R105). -/
theorem fbModify_paintsColumn {mask : Byte} (hy : y < p.geometry.height) (hn : y % 8 + n ≤ 8)
    (hmask : ∀ j < 8, mask.getLsbD j = decide (y % 8 ≤ j ∧ j < y % 8 + n)) :
    PaintsColumn p c x y n m (fbModify p c m (p.geometry.index x y) mask) := by
  refine ⟨wf_fbModify h c (p.geometry.index_lt hx hy) mask, fun px py hx' => ?_⟩
  have hrow : py % 8 < 8 := Nat.mod_lt _ (by omega)
  rw [pixel, fbRead_fbModify (Memory.wf_iff.mp h).1]
  by_cases hi : p.geometry.index px py = p.geometry.index x y
  · rw [if_pos hi, Colour.apply_getLsbD _ _ _ _ hrow, hmask _ hrow, ← hi, pixel]
    obtain ⟨hcol, hpage⟩ := (p.geometry.index_inj hx' hx).mp hi
    exact if_congr (by rw [decide_eq_true_iff]; omega) rfl rfl
  · rw [if_neg hi, pixel, if_neg]
    rintro ⟨hcol, hlo, hhi⟩
    exact hi ((p.geometry.index_inj hx' hx).mpr ⟨hcol, by omega⟩)

/-- The whole bytes paint whole pages of rows. -/
theorem vrunWhole_paintsColumn {k : Nat} (ho : y % 8 = 0) (hy : y + 8 * k ≤ p.geometry.height) :
    PaintsColumn p c x y (8 * k) m (vrunWhole p c (p.geometry.index x y) k m) := by
  unfold vrunWhole
  induction k with
  | zero => exact .refl h
  | succ k ih =>
    have hbefore := ih (by omega)
    rw [List.range_succ, List.foldl_append, List.foldl_cons, List.foldl_nil,
      p.geometry.index_add_pages x (y' := y + 8 * k) (by omega)]
    refine hbefore.trans (fbModify_paintsColumn c hbefore.wf hx (by omega) (by omega) fun j hj => ?_)
    have hall : ∀ j < 8, (0xFF#8).getLsbD j = true := by decide
    rw [hall j hj, eq_comm, decide_eq_true_iff]
    omega

/-- Whole bytes and a trailing partial byte, from the first row of a page on. -/
theorem vrunTail_paintsColumn (ho : y % 8 = 0) (hy : y + n ≤ p.geometry.height) :
    PaintsColumn p c x y n m (vrunTail p c (p.geometry.index x y) n m) := by
  have hwhole := vrunWhole_paintsColumn (k := n / 8) c h hx ho (by omega)
  unfold vrunTail
  dsimp only
  split
  · rw [p.geometry.index_add_pages x (y' := y + 8 * (n / 8)) (by omega)]
    have htrail := hwhole.trans (fbModify_paintsColumn (n := n % 8) (mask := vlinePostMask (n % 8)) c hwhole.wf hx
      (by omega) (by omega) fun j hj => by rw [vlinePostMask_getLsbD _ (by omega) j hj, decide_eq_decide]; omega)
    rwa [Nat.div_add_mod] at htrail
  · have hn : 8 * (n / 8) = n := by omega
    rwa [hn] at hwhole

/-- The byte-level form paints the rows of the pixel-level one: the leading byte up to the page's end or the run's, and
the rest, if any, from the next page on (R105, R106). -/
theorem vrunByteCells_paintsColumn (hn : 0 < n) (hy : y + n ≤ p.geometry.height) :
    PaintsColumn p c x y n m (vrunByteCells p c x y n m) := by
  unfold vrunByteCells
  dsimp only
  split
  case isFalse ho => exact vrunTail_paintsColumn c h hx (by omega) hy
  case isTrue ho =>
    have hoffset : y % 8 < 8 := Nat.mod_lt _ (by omega)
    have hlead : PaintsColumn p c x y (min n (8 - y % 8)) m
        (fbModify p c m (p.geometry.index x y) (leadMask (y % 8) n)) :=
      fbModify_paintsColumn c h hx (by omega) (by omega) fun j hj => leadMask_getLsbD hoffset hj
    by_cases hshort : n ≤ 8 - y % 8
    · rw [min_eq_left hshort] at hlead ⊢
      rwa [Nat.sub_self]
    · rw [min_eq_right (by omega)] at hlead ⊢
      have hnext : p.geometry.index x y + p.geometry.width = p.geometry.index x (y + (8 - y % 8)) := by
        rw [← p.geometry.index_add_pages x (y := y) (y' := y + (8 - y % 8)) (j := 1) (by omega), Nat.one_mul]
      have hrest := hlead.trans (vrunTail_paintsColumn (n := n - (8 - y % 8)) c hlead.wf hx (by omega) (by omega))
      rw [hnext]
      rwa [Nat.add_sub_cancel' (by omega)] at hrest

end

/-- Settles O17: both forms paint the same rows of the column. -/
theorem byteDecompositionEqualsPixelMeaning : Obligations.ByteDecompositionEqualsPixelMeaning := by
  unfold Obligations.ByteDecompositionEqualsPixelMeaning
  intro s x y len c h
  unfold State.fbVrunBytes State.fbVrun clipLo clipHi
  dsimp only
  split
  · rfl
  · split
    · rfl
    · rw [(vrunByteCells_paintsColumn c h (by omega) (by omega) (by omega)).unique
        (vrunCells_paintsColumn c h (by omega) (by omega))]

end Machine

end Sys2Proof
end

section
/-! Proofs of the statements on the dirty window (41_dirty_window.md): the union, the empty window, that DW is the exact
bounding box of what was drawn, and that it only grows until it is reset. -/

namespace Sys2Proof.Machine

/-! ## The union and the empty window -/

/-- The other half of `Window.Legal`: a box inside the buffer that holds a pixel (10_state.md R16). -/
abbrev Window.IsBox (g : Geometry) (w : Window) : Prop :=
  0 ≤ w.x1 ∧ w.x1 ≤ w.x2 ∧ w.x2 ≤ (g.width : Int) - 1 ∧ 0 ≤ w.y1 ∧ w.y1 ≤ w.y2 ∧ w.y2 ≤ (g.height : Int) - 1

/-- The four registers of `w` are no further in than those of `v` (R117). -/
abbrev Window.Grows (v w : Window) : Prop := w.x1 ≤ v.x1 ∧ w.y1 ≤ v.y1 ∧ v.x2 ≤ w.x2 ∧ v.y2 ≤ w.y2

/-- DW_EXPAND only moves the registers out. -/
theorem Window.grows_expand (w : Window) (x1 y1 x2 y2 : Int) : w.Grows (w.expand x1 y1 x2 y2) :=
  ⟨min_le_left _ _, min_le_left _ _, le_max_left _ _, le_max_left _ _⟩

/-- A box inside the window adds nothing (R113). -/
theorem Window.expand_of_grows {w b : Window} (h : b.Grows w) : w.expand b.x1 b.y1 b.x2 b.y2 = w := by
  obtain ⟨hx1, hy1, hx2, hy2⟩ := h
  rw [Window.expand, min_eq_left hx1, min_eq_left hy1, max_eq_left hx2, max_eq_left hy2]

/-- The sentinel lies inside out around every box, so that the union with it is the box (R113, D8). -/
theorem Window.expand_sentinel {g : Geometry} {b : Window} (h : b.IsBox g) :
    (Window.sentinel g).expand b.x1 b.y1 b.x2 b.y2 = b := by
  simp only [Window.expand, Window.sentinel]
  rw [min_eq_right (by omega), min_eq_right (by omega), max_eq_right (by omega), max_eq_right (by omega)]

/-- Settles O20: the union by definition, and its two corner cases. -/
theorem expandIsTheUnion : Obligations.ExpandIsTheUnion := by
  unfold Obligations.ExpandIsTheUnion
  intro w x1 y1 x2 y2
  exact ⟨rfl, fun hx1 hy1 hx2 hy2 => Window.expand_of_grows (b := ⟨x1, y1, x2, y2⟩) ⟨hx1, hy1, hx2, hy2⟩,
    fun g h0 hx hw h0' hy hh => Window.expand_sentinel (b := ⟨x1, y1, x2, y2⟩) ⟨h0, hx, hw, h0', hy, hh⟩⟩

theorem Window.isEmpty_eq_false_of_le {w : Window} (h : w.x1 ≤ w.x2) : w.isEmpty = false :=
  decide_eq_false (by omega)

/-- Settles O21: of the legal windows the sentinel is empty (R115) and a box is at least one column wide. -/
theorem emptyIsTheSentinel : Obligations.EmptyIsTheSentinel := by
  unfold Obligations.EmptyIsTheSentinel
  intro g w h
  change _ ↔ w = Window.sentinel g
  refine ⟨fun he => h.resolve_right fun ⟨_, hx, _⟩ => ?_, fun e => e ▸ Window.sentinel_empty g⟩
  cases he.symm.trans (Window.isEmpty_eq_false_of_le hx)

/-! ## The exact bounding box -/

/-- The columns of the pixels of a set. -/
def columns (S : Set (Nat × Nat)) : Set Int := (fun p : Nat × Nat => (p.1 : Int)) '' S

/-- The rows of the pixels of a set. -/
def rows (S : Set (Nat × Nat)) : Set Int := (fun p : Nat × Nat => (p.2 : Int)) '' S

/-- `w` is the exact bounding box of the pixels of a set, which is then not empty (R119). -/
structure Window.Bounds (w : Window) (S : Set (Nat × Nat)) : Prop where
  left : IsLeast (columns S) w.x1
  top : IsLeast (rows S) w.y1
  right : IsGreatest (columns S) w.x2
  bottom : IsGreatest (rows S) w.y2

/-- The pixels of a clipped run. -/
def coveredPixels (g : Geometry) (k : RunKind) (x y len : Int) : Set (Nat × Nat) := {p | Covers g k x y len p.1 p.2}

/-- The pixels that some call draws. -/
def drawnPixels (g : Geometry) (cs : List PrimCall) : Set (Nat × Nat) := {p | Drawn g cs p.1 p.2}

/-- The pixels of a window. -/
def Window.pixels (w : Window) : Set (Nat × Nat) := {p | w.Contains p.1 p.2}

theorem drawnPixels_nil (g : Geometry) : drawnPixels g [] = ∅ := by simp [drawnPixels, Drawn]

theorem drawnPixels_concat (g : Geometry) (cs : List PrimCall) (c : PrimCall) :
    drawnPixels g (cs ++ [c]) = drawnPixels g cs ∪ coveredPixels g c.kind c.x c.y c.length := by
  ext p
  simp [drawnPixels, coveredPixels, Drawn, or_and_right, exists_or]

/-- A box bounds its own pixels: two of its corners meet the four sides. -/
theorem Window.IsBox.bounds_pixels {g : Geometry} {b : Window} (h : b.IsBox g) : b.Bounds b.pixels := by
  obtain ⟨hx1, hx, -, hy1, hy, -⟩ := h
  have hfirst : (b.x1.toNat, b.y1.toNat) ∈ b.pixels := ⟨by omega, by omega, by omega, by omega⟩
  have hlast : (b.x2.toNat, b.y2.toNat) ∈ b.pixels := ⟨by omega, by omega, by omega, by omega⟩
  constructor
  · exact ⟨⟨_, hfirst, Int.toNat_of_nonneg hx1⟩, Set.forall_mem_image.mpr fun _ hp => hp.1⟩
  · exact ⟨⟨_, hfirst, Int.toNat_of_nonneg hy1⟩, Set.forall_mem_image.mpr fun _ hp => hp.2.2.1⟩
  · exact ⟨⟨_, hlast, Int.toNat_of_nonneg (hx1.trans hx)⟩, Set.forall_mem_image.mpr fun _ hp => hp.2.1⟩
  · exact ⟨⟨_, hlast, Int.toNat_of_nonneg (hy1.trans hy)⟩, Set.forall_mem_image.mpr fun _ hp => hp.2.2.2⟩

/-- A run is one pixel wide: the pixels of a clipped run are those of its box (40_framebuffer.md R102, R103, R107). -/
theorem coveredPixels_cases (g : Geometry) (k : RunKind) (x y len : Int) :
    (clippedBox g k x y len = none ∧ coveredPixels g k x y len = ∅) ∨
      ∃ b, clippedBox g k x y len = some b ∧ b.IsBox g ∧ coveredPixels g k x y len = b.pixels := by
  unfold clippedBox coveredPixels Window.pixels Covers Window.Contains
  cases k <;> dsimp only <;> split
  case horizontal.isTrue | vertical.isTrue =>
    exact .inr ⟨_, rfl, by dsimp only [Window.IsBox]; omega, Set.ext fun p => by simp only [Set.mem_ofPred_eq]; omega⟩
  case horizontal.isFalse | vertical.isFalse =>
    exact .inl ⟨rfl, Set.eq_empty_of_forall_notMem fun p => by rw [Set.mem_ofPred_eq]; omega⟩

namespace Window.Bounds

variable {v w : Window} {S T : Set (Nat × Nat)}

/-- The union of two bounding boxes bounds the union (R113). -/
theorem expand (hw : w.Bounds S) (hv : v.Bounds T) : (w.expand v.x1 v.y1 v.x2 v.y2).Bounds (S ∪ T) where
  left := by rw [columns, Set.image_union]; exact hw.left.union hv.left
  top := by rw [rows, Set.image_union]; exact hw.top.union hv.top
  right := by rw [columns, Set.image_union]; exact hw.right.union hv.right
  bottom := by rw [rows, Set.image_union]; exact hw.bottom.union hv.bottom

theorem contains (h : w.Bounds S) {p : Nat × Nat} (hp : p ∈ S) : w.Contains p.1 p.2 :=
  ⟨h.left.2 ⟨p, hp, rfl⟩, h.right.2 ⟨p, hp, rfl⟩, h.top.2 ⟨p, hp, rfl⟩, h.bottom.2 ⟨p, hp, rfl⟩⟩

theorem not_empty (h : w.Bounds S) : w.isEmpty = false := Window.isEmpty_eq_false_of_le (h.left.2 h.right.1)

end Window.Bounds

/-- DW holds the exact bounding box of the pixels of a set, or the sentinel where there are none (R119). -/
def Window.Tracks (g : Geometry) (w : Window) (S : Set (Nat × Nat)) : Prop :=
  (w = Window.sentinel g ∧ S = ∅) ∨ w.Bounds S

namespace Window.Tracks

variable {g : Geometry} {w : Window} {S : Set (Nat × Nat)}

/-- Adding the box of a clipped run tracks its pixels too. -/
theorem join (h : w.Tracks g S) (k : RunKind) (x y len : Int) :
    (w.join (clippedBox g k x y len)).Tracks g (S ∪ coveredPixels g k x y len) := by
  rcases coveredPixels_cases g k x y len with ⟨e, hpix⟩ | ⟨b, e, hb, hpix⟩ <;> rw [e, hpix, Window.join]
  · rwa [Set.union_empty]
  · rcases h with ⟨rfl, rfl⟩ | h
    · rw [Window.expand_sentinel hb, Set.empty_union]
      exact .inr hb.bounds_pixels
    · exact .inr (h.expand hb.bounds_pixels)

theorem contains (h : w.Tracks g S) {p : Nat × Nat} (hp : p ∈ S) : w.Contains p.1 p.2 := by
  rcases h with ⟨-, rfl⟩ | h
  · exact hp.elim
  · exact h.contains hp

theorem eq_sentinel (h : w.Tracks g S) (he : w.isEmpty = true) : w = Window.sentinel g := by
  rcases h with ⟨e, -⟩ | h
  · exact e
  · cases he.symm.trans h.not_empty

/-- The two ways of R119 for the pixels some calls draw: none, or a drawn pixel on each side. -/
theorem sides {cs : List PrimCall} (h : w.Tracks g (drawnPixels g cs)) :
    (w = Window.sentinel g ∧ ∀ px py, ¬ Drawn g cs px py) ∨
      ((∃ px py, Drawn g cs px py ∧ w.x1 = px) ∧ (∃ px py, Drawn g cs px py ∧ w.y1 = py) ∧
        (∃ px py, Drawn g cs px py ∧ w.x2 = px) ∧ (∃ px py, Drawn g cs px py ∧ w.y2 = py)) := by
  rcases h with ⟨e, hnone⟩ | h
  · exact .inl ⟨e, fun px py => Set.eq_empty_iff_forall_notMem.mp hnone (px, py)⟩
  · obtain ⟨⟨pl, hl, el⟩, -⟩ := h.left
    obtain ⟨⟨pt, ht, et⟩, -⟩ := h.top
    obtain ⟨⟨pr, hr, er⟩, -⟩ := h.right
    obtain ⟨⟨pb, hb, eb⟩, -⟩ := h.bottom
    exact .inr ⟨⟨_, _, hl, el.symm⟩, ⟨_, _, ht, et.symm⟩, ⟨_, _, hr, er.symm⟩, ⟨_, _, hb, eb.symm⟩⟩

end Window.Tracks

/-- From the empty window, DW tracks what the calls draw. -/
theorem State.runCalls_dw_tracks (cs : List PrimCall) {s : State} (h : s.dw = Window.sentinel s.cfg.geometry) :
    (s.runCalls cs).dw.Tracks s.cfg.geometry (drawnPixels s.cfg.geometry cs) := by
  rw [State.runCalls_dw, h]
  induction cs using List.reverseRecOn with
  | nil => exact .inl ⟨rfl, drawnPixels_nil _⟩
  | append_singleton cs c ih =>
    rw [List.foldl_append, drawnPixels_concat]
    exact ih.join c.kind c.x c.y c.length

/-- A flush that went through found nothing to send, or has reset DW (R115). -/
theorem State.flush_done {s t : State} (h : s.flush = .done t) :
    (s.dw.isEmpty = true ∧ t = s) ∨ t.dw = Window.sentinel s.cfg.geometry := by
  rcases s.flush_cases with ⟨he, e⟩ | ⟨_, e | ⟨_, _, _, _, _, e⟩ | ⟨_, _, _, _, _, e⟩⟩ <;> cases e.symm.trans h
  · exact .inl ⟨he, rfl⟩
  · exact .inr rfl

/-- Settles O22: the calls keep DW tracking what is drawn, and a flush leaves the sentinel, which is empty. -/
theorem windowIsTheExactBoundingBox : Obligations.WindowIsTheExactBoundingBox := by
  unfold Obligations.WindowIsTheExactBoundingBox
  intro s cs h
  have htracks := State.runCalls_dw_tracks cs h
  refine ⟨fun px py hd => htracks.contains (p := (px, py)) hd, htracks.sides, fun t ht => ?_⟩
  have hdw : t.dw = Window.sentinel s.cfg.geometry := by
    rcases State.flush_done ht with ⟨he, rfl⟩ | e
    · exact htracks.eq_sentinel he
    · rwa [State.runCalls_cfg] at e
  exact ⟨hdw, State.flush_empty (hdw ▸ Window.sentinel_empty _)⟩

/-! ## What an instruction does to DW -/

theorem Window.grows_refl (w : Window) : w.Grows w := ⟨le_rfl, le_rfl, le_rfl, le_rfl⟩

theorem Window.grows_join (w : Window) (b : Option Window) : w.Grows (w.join b) := by
  cases b with
  | none => exact w.grows_refl
  | some b => exact w.grows_expand _ _ _ _

/-- The whole buffer is around every legal window, the sentinel included (R114). -/
theorem Window.grows_full {g : Geometry} {w : Window} (h : Window.Legal g w) : w.Grows (Window.full g) := by
  dsimp only [Window.Grows, Window.full]
  rcases h with rfl | hbox
  · dsimp only [Window.sentinel]
    omega
  · omega

/-- What may become of DW in one operation (R113 to R115): it stays, a clipped run is added, it is marked full, or it is
reset. -/
inductive Window.Moves (g : Geometry) (w : Window) : Window → Prop
  | kept : Moves g w w
  | drawn (k : RunKind) (x y len : Int) : Moves g w (w.join (clippedBox g k x y len))
  | marked : Moves g w (Window.full g)
  | reset : Moves g w (Window.sentinel g)

/-- Of the four only the reset makes a legal window smaller (R117). -/
theorem Window.Moves.sentinel_or_grows {g : Geometry} {v w : Window} (h : Window.Moves g v w)
    (hv : Window.Legal g v) : w = Window.sentinel g ∨ v.Grows w := by
  cases h with
  | kept => exact .inr v.grows_refl
  | drawn k x y len => exact .inr (v.grows_join _)
  | marked => exact .inr (Window.grows_full hv)
  | reset => exact .inl rfl

/-- DW from `s` to `t`, within one operation. -/
def DwMoves (s t : State) : Prop := Window.Moves s.cfg.geometry s.dw t.dw

namespace DwMoves

variable {s t : State}

theorem same (h : t.dw = s.dw) : DwMoves s t := by rw [DwMoves, h]; exact .kept

theorem marked (h : t.dw = Window.full s.cfg.geometry) : DwMoves s t := by rw [DwMoves, h]; exact .marked

theorem reset (h : t.dw = Window.sentinel s.cfg.geometry) : DwMoves s t := by rw [DwMoves, h]; exact .reset

theorem drawRun (s : State) (k : RunKind) (x y len : Int) (c : Colour) : DwMoves s (s.drawRun k x y len c) := by
  rw [DwMoves, State.drawRun, State.runPrim_dw]
  exact .drawn _ _ _ _

theorem whenLc (need : Lifecycle) {body : State → State} (h : DwMoves s (body s)) : DwMoves s (s.whenLc need body) := by
  rcases s.whenLc_cases need body with ⟨_, e⟩ | ⟨_, e⟩ <;> rw [e]
  · exact same rfl
  · exact h

theorem issueWire (s : State) (i : Instr) : DwMoves s (s.issueWire i) := by
  rcases s.issueWire_cases i with e | e | e <;> rw [e] <;> exact same rfl

theorem startScroll (s : State) (d hi v a b : Byte) : DwMoves s (s.startScroll d hi v a b) := by
  refine whenLc _ ?_
  rcases emitAll_cases (scrollTxns s.cfg d hi v a b) s with e | ⟨_, _, _, _, e⟩ | ⟨_, _, _, _, e⟩ <;> rw [e] <;>
    exact same rfl

/-- FLUSH resets DW after the last page and leaves it otherwise (43_sequencer.md R138, R144). -/
theorem flush (s : State) : DwMoves s s.flush.finish := by
  rcases s.flush_cases with ⟨_, e⟩ | ⟨_, e | ⟨_, _, _, _, _, e⟩ | ⟨_, _, _, _, _, e⟩⟩ <;> rw [e]
  · exact same rfl
  · exact reset rfl
  · exact same rfl
  · exact same rfl

/-- STARTUP leaves DW until the splash is drawn, then marks it full, and resets it once the flush has gone through
(R137, R143). -/
theorem startupBody (s : State) : DwMoves s s.startupBody.finish := by
  have hreset : s.flushed.dw = Window.sentinel s.cfg.geometry :=
    congrArg (fun p : Params => Window.sentinel p.geometry) s.configured_cfg
  rcases s.startupBody_cases with e | ⟨_, _, _, _, e | e⟩ | ⟨_, _, _, _, _, e | e⟩ | e | e <;> rw [e]
  · exact reset hreset
  · exact same rfl
  · exact same rfl
  · exact marked s.configured_dw
  · exact marked s.configured_dw
  · exact reset hreset
  · exact reset hreset

/-- Every instruction moves DW in one of the four ways. -/
theorem exec {i : Instr} (h : exec i s = .next t) : DwMoves s t := by
  cases i
  case hrun c len y x => cases h; exact whenLc _ (drawRun s .horizontal x y len c)
  case vrun c len y x => cases h; exact whenLc _ (drawRun s .vertical x y len c)
  case setrot q => cases h; exact same rfl
  case startup => cases h; exact whenLc _ (startupBody s)
  case display =>
    rcases execDisplay_cases s with ⟨_, e⟩ | ⟨_, _, e⟩ | ⟨_, _, e⟩ <;> cases e.symm.trans h
    · exact same rfl
    · exact flush s
  case shutdown =>
    cases h
    refine whenLc _ ?_
    rcases emitAll_cases (shutdownTxns s.cfg.wc) { s with lc := .shuttingDown } with e | ⟨_, _, _, _, e⟩ |
      ⟨_, _, _, _, e⟩ <;> rw [e] <;> exact same rfl
  case scrstop =>
    cases h
    refine whenLc _ ?_
    rw [State.emit_eq]
    cases s.transport.answer 0 with
    | ok => exact marked rfl
    | fail => exact marked rfl
    | never => exact same rfl
  case endisp b => cases h; exact whenLc _ (issueWire s _)
  case invdisp b => cases h; exact whenLc _ (issueWire s _)
  case scrl | scrr | scrdl | scrdr | scrup => cases h; exact startScroll s _ _ _ _ _
  all_goals cases h; exact issueWire s _

end DwMoves

/-- Settles O24: every instruction keeps DW, adds a run, marks it full or resets it. -/
theorem windowOnlyGrowsUntilReset : Obligations.WindowOnlyGrowsUntilReset := by
  unfold Obligations.WindowOnlyGrowsUntilReset
  exact fun _ _ _ hlegal h => (DwMoves.exec h).sentinel_or_grows hlegal

end Sys2Proof.Machine
end

section
/-! Proofs of the statements on the rotation mapper (42_rotation.md): HRUN and VRUN as the run of their kind, the point
map and its inverse, and SETROT. -/

namespace Sys2Proof

/-! ## The point map -/

/-- The logical pixel whose image a physical one is: the point map read backwards (42_rotation.md R124). -/
def Geometry.logicalPoint (g : Geometry) (q : Rotation) (px py : Int) : Int × Int :=
  match q with
  | .deg0 => (px, py)
  | .deg90 => (py, g.width - 1 - px)
  | .deg180 => (g.width - 1 - px, g.height - 1 - py)
  | .deg270 => (g.height - 1 - py, px)

/-- Every physical pixel is the image of exactly one logical pixel. -/
theorem Geometry.pointMap_eq_iff (g : Geometry) (q : Rotation) {x y px py : Int} :
    g.pointMap q x y = (px, py) ↔ (x, y) = g.logicalPoint q px py := by
  cases q <;> simp only [Geometry.pointMap, Geometry.logicalPoint, Prod.mk.injEq] <;> omega

theorem Geometry.pointMap_injective (g : Geometry) (q : Rotation) {x y x' y' : Int}
    (h : g.pointMap q x y = g.pointMap q x' y') : x = x' ∧ y = y' :=
  Prod.mk.inj (((g.pointMap_eq_iff q).mp h).trans ((g.pointMap_eq_iff q).mp rfl).symm)

theorem Geometry.inside_iff {g : Geometry} {x y : Int} :
    g.inside x y = true ↔ 0 ≤ x ∧ x < g.width ∧ 0 ≤ y ∧ y < g.height := by
  simp only [Geometry.inside, Bool.and_eq_true, decide_eq_true_eq, and_assoc]

/-- The image of a logical pixel lies in the buffer exactly when the pixel lies in the logical extent (R128). -/
theorem Geometry.inside_pointMap_iff (g : Geometry) (q : Rotation) (x y : Int) :
    g.inside (g.pointMap q x y).1 (g.pointMap q x y).2 = true ↔
      0 ≤ x ∧ x < (g.logicalExtent q).1 ∧ 0 ≤ y ∧ y < (g.logicalExtent q).2 := by
  rw [Geometry.inside_iff]
  cases q <;> simp only [Geometry.pointMap, Geometry.logicalExtent] <;> omega

/-- Settles O28: the point map has an inverse, and takes the bounds of the logical extent to those of the buffer. -/
theorem pointMapIsABijection : Obligations.PointMapIsABijection := by
  unfold Obligations.PointMapIsABijection
  intro g q
  exact ⟨fun _ _ _ _ => g.pointMap_injective q, g.inside_pointMap_iff q,
    fun px py => ⟨_, _, (g.pointMap_eq_iff q).mpr rfl⟩⟩

namespace Machine

/-! ## Results and refusals -/

/-- Delivering a code ends an operation that has delivered none before (10_state.md R30, R21). -/
theorem ended_deliver {r : ResultCode} {s u : State} (h : u.results = s.results) : Ended r s (u.deliver r) :=
  ⟨rfl, congrArg (· ++ [r]) h, rfl, rfl, rfl, rfl⟩

/-- A host word that does not decode, offered to a ready block, is answered E_ILLEGAL (60_exceptions.md R173). -/
theorem State.fetch_illegal {s : State} {w : OpWord} {rest : List Input} {e : DecodeError}
    (hin : s.inputs = .word (.host w) :: rest) (hr : s.opReady = true) (hd : decodeHost w = .error e) :
    s.fetch = .illegal ((s.accept none rest).deliver .eIllegal) := by
  simp only [State.fetch, decode, hin, hr, hd, if_true]

theorem malformedRejected (s : State) : MalformedRejected s := by
  intro w rest e hin hr hd
  refine ⟨(s.accept none rest).deliver .eIllegal, ?_, ⟨rfl, rfl, rfl, rfl, rfl, rfl⟩, ⟨rfl, rfl, rfl⟩,
    ended_deliver rfl, rfl⟩
  rw [step, State.fetch_illegal hin hr hd]

/-- An operation that only delivers E_USAGE is refused by the lifecycle (60_exceptions.md R171). -/
theorem usageRejected_of_exec_eq {i : Instr} {s : State} (h : exec i s = .next (s.deliver .eUsage)) :
    UsageRejected i s :=
  ⟨_, h, ⟨rfl, rfl, rfl, rfl, rfl, rfl⟩, ⟨rfl, rfl, rfl⟩, ended_deliver rfl, rfl⟩

/-! ## A logical run -/

section
variable (s : State) (k : RunKind) (x y len : Int) (c : Colour)

/-- A run of no length draws nothing at any rotation (42_rotation.md R121, 40_framebuffer.md R107). -/
theorem State.drawRun_of_length_nonpos (h : len ≤ 0) : s.drawRun k x y len c = s :=
  s.runPrim_of_not_covers c (not_covers_of_length_nonpos h)

/-- A logical run paints the physical images of its pixels that lie in the buffer (42_rotation.md R125): they are the
clipped run of the primitive it becomes. -/
theorem State.drawRun_paints (h : s.fb.rising = true) :
    Paints c (fun px py => px < s.cfg.geometry.width ∧ py < s.cfg.geometry.height ∧
      Images s.cfg.geometry s.rot k x y len px py) s (s.drawRun k x y len c) := by
  simp only [← s.cfg.geometry.covers_mapRun_iff]
  exact State.runPrim_paints h _ _ _ len c

/-- The operation that draws a logical run of a kind. -/
def runInstr : Instr :=
  match k with
  | .horizontal => .hrun c len y x
  | .vertical => .vrun c len y x

/-- HRUN and VRUN are one meaning at the two kinds of run (42_rotation.md R121, R122, R127). -/
theorem exec_runInstr :
    exec (runInstr k x y len c) s = .next (s.whenLc .active fun s => (s.drawRun k x y len c).deliver .ok) := by
  cases k <;> rfl

variable {s}

theorem exec_runInstr_of_active (hl : s.lc = .active) :
    exec (runInstr k x y len c) s = .next ((s.drawRun k x y len c).deliver .ok) := by
  rw [exec_runInstr, State.whenLc, if_pos hl]

theorem usageRejected_runInstr (hl : s.lc ≠ .active) : UsageRejected (runInstr k x y len c) s := by
  apply usageRejected_of_exec_eq
  rw [exec_runInstr, State.whenLc, if_neg hl]

/-- In Active a run ends OK with FB and DW as the mapped primitive leaves them, and all else as it was. -/
theorem exec_runInstr_completes (hl : s.lc = .active) {u : State} (hu : s.drawRun k x y len c = u) :
    ∃ t, exec (runInstr k x y len c) s = .next t ∧ Ended .ok s t ∧ NoTraffic s t ∧
      t.cfg = s.cfg ∧ t.rot = s.rot ∧ t.lc = s.lc ∧ t.pcfg = s.pcfg ∧ t.inputs = s.inputs ∧
      t.fb = u.fb ∧ t.dw = u.dw ∧ (len ≤ 0 → t.fb = s.fb ∧ t.dw = s.dw) := by
  have hempty : len ≤ 0 → u.fb = s.fb ∧ u.dw = s.dw := fun h => by
    rw [← hu, s.drawRun_of_length_nonpos k x y len c h]
    exact ⟨rfl, rfl⟩
  refine ⟨u.deliver .ok, by rw [exec_runInstr_of_active k x y len c hl, hu], ?_⟩
  obtain ⟨fb, dw, hframe⟩ := s.drawRun_frame k x y len c
  obtain rfl : u = { s with fb := fb, dw := dw } := hu.symm.trans hframe
  exact ⟨ended_deliver rfl, ⟨rfl, rfl, rfl⟩, rfl, rfl, rfl, rfl, rfl, rfl, rfl, hempty⟩

end

/-! ## The statements -/

/-- Settles O25: HRUN is the run of horizontal kind, whose primitive is the row of R121 that ROT selects. -/
theorem horizontalRunByRotation : Obligations.HorizontalRunByRotation := by
  unfold Obligations.HorizontalRunByRotation
  intro s c len y x
  refine ⟨fun hf => (decodeHost_iff_encode .default).mpr ⟨rfl, hf, rfl⟩, fun hl => ?_,
    usageRejected_runInstr .horizontal x y len c, malformedRejected s⟩
  refine exec_runInstr_completes .horizontal x y len c hl ?_
  unfold State.drawRun
  cases s.rot <;> rfl

/-- Settles O26: VRUN is the run of vertical kind, whose primitive is the row of R122 that ROT selects. -/
theorem verticalRunByRotation : Obligations.VerticalRunByRotation := by
  unfold Obligations.VerticalRunByRotation
  intro s c len y x
  refine ⟨fun hf => (decodeHost_iff_encode .default).mpr ⟨rfl, hf, rfl⟩, fun hl => ?_,
    usageRejected_runInstr .vertical x y len c, malformedRejected s⟩
  refine exec_runInstr_completes .vertical x y len c hl ?_
  unfold State.drawRun
  cases s.rot <;> rfl

/-- Settles O27: at either kind the operation draws its run, and the result code it delivers leaves FB alone. -/
theorem runsPaintTheirPointImages : Obligations.RunsPaintTheirPointImages := by
  unfold Obligations.RunsPaintTheirPointImages
  intro s k c len y x hwf hl
  refine ⟨(s.drawRun k x y len c).deliver .ok, ?_, s.drawRun_paints k x y len c hwf.rising⟩
  cases k
  case horizontal => exact exec_runInstr_of_active .horizontal x y len c hl
  case vertical => exact exec_runInstr_of_active .vertical x y len c hl

/-- Settles O29: SETROT has no lifecycle check, and the code it delivers leaves the registers alone. -/
theorem setRotationWritesRotAlone : Obligations.SetRotationWritesRotAlone := by
  unfold Obligations.SetRotationWritesRotAlone
  intro s q
  have hended : Ended .ok s ({ s with rot := q }.deliver .ok) := ended_deliver rfl
  exact ⟨_, rfl, rfl, hended, ⟨rfl, rfl, rfl⟩, rfl, rfl, rfl, rfl, rfl, rfl⟩

end Machine

end Sys2Proof
end

section
/-! Proofs of the statements on the sequencer (43_sequencer.md): the panel's configuration, STARTUP, FLUSH and DISPLAY,
SHUTDOWN, ENDISP and INVDISP, with every transaction answered ok and with number `k` answered fail, and what each
operation leaves of the registers whatever the answers. -/

namespace Sys2Proof.Machine

/-! ## What traffic leaves alone -/

/-- The state with every field but the parameters, the registers and the inputs to come at its reset value. -/
def State.registersOnly (s : State) : State :=
  { State.resetWith s.cfg with
    fb := s.fb
    dw := s.dw
    rot := s.rot
    lc := s.lc
    pcfg := s.pcfg
    inputs := s.inputs }

/-- From `s` to `t` the registers and the inputs to come are kept: traffic, results and the ports alone may differ. -/
def KeepsRegisters (s t : State) : Prop := t.registersOnly = s.registersOnly

namespace KeepsRegisters

variable {s t : State}

theorem cfg (h : KeepsRegisters s t) : t.cfg = s.cfg := (congrArg State.cfg h :)

theorem fb (h : KeepsRegisters s t) : t.fb = s.fb := (congrArg State.fb h :)

theorem dw (h : KeepsRegisters s t) : t.dw = s.dw := (congrArg State.dw h :)

theorem rot (h : KeepsRegisters s t) : t.rot = s.rot := (congrArg State.rot h :)

theorem lc (h : KeepsRegisters s t) : t.lc = s.lc := (congrArg State.lc h :)

theorem pcfg (h : KeepsRegisters s t) : t.pcfg = s.pcfg := (congrArg State.pcfg h :)

theorem inputs (h : KeepsRegisters s t) : t.inputs = s.inputs := (congrArg State.inputs h :)

theorem sameRegisters (h : KeepsRegisters s t) : SameRegisters s t := ⟨h.cfg, h.fb, h.dw, h.rot, h.lc, h.pcfg⟩

theorem withLc (h : KeepsRegisters s t) (l : Lifecycle) : KeepsRegisters { s with lc := l } { t with lc := l } :=
  (congrArg (fun u : State => { u with lc := l }) h :)

theorem whenLc (need : Lifecycle) {body : State → State} (h : KeepsRegisters s (body s)) :
    KeepsRegisters s (s.whenLc need body) := by
  rcases s.whenLc_cases need body with ⟨_, e⟩ | ⟨_, e⟩ <;> rw [e]
  · exact rfl
  · exact h

theorem issueWire (s : State) (i : Instr) : KeepsRegisters s (s.issueWire i) := by
  rcases s.issueWire_cases i with e | e | e <;> rw [e] <;> exact rfl

theorem startScroll (s : State) (d hi v a b : Byte) : KeepsRegisters s (s.startScroll d hi v a b) := by
  refine whenLc _ ?_
  rcases emitAll_cases (scrollTxns s.cfg d hi v a b) s with e | ⟨_, _, _, _, e⟩ | ⟨_, _, _, _, e⟩ <;> rw [e] <;>
    exact rfl

/-- FLUSH resets DW after the last page and leaves it otherwise (R138, R144). -/
theorem flush (s : State) : KeepsRegisters s s.flush.finish ∨ KeepsRegisters s.resetWindow s.flush.finish := by
  rcases s.flush_cases with ⟨_, e⟩ | ⟨_, e | ⟨_, _, _, _, _, e⟩ | ⟨_, _, _, _, _, e⟩⟩ <;> rw [e]
  · exact .inl rfl
  · exact .inr rfl
  · exact .inl rfl
  · exact .inl rfl

theorem execDisplay (h : execDisplay s = .next t) : KeepsRegisters s t ∨ KeepsRegisters s.resetWindow t := by
  rcases execDisplay_cases s with ⟨_, e⟩ | ⟨_, _, e⟩ | ⟨_, _, e⟩ <;> cases e.symm.trans h
  · exact .inl rfl
  · exact flush s

theorem execScrstop (h : execScrstop s = .next t) : KeepsRegisters s t ∨ KeepsRegisters s.markFull t := by
  by_cases hl : s.lc = .active
  · rcases s.scrstop_cases hl with e | e | e <;> cases e.symm.trans h
    · exact .inr rfl
    · exact .inr rfl
    · exact .inl rfl
  · rw [Machine.execScrstop, State.whenLc, if_neg hl] at h
    cases h
    exact .inl rfl

end KeepsRegisters

/-! ## The outcomes of SHUTDOWN and STARTUP -/

/-- SHUTDOWN is refused, or ends OK in `Stopped`, or has left the block in `ShuttingDown` (R140, R148). -/
theorem execShutdown_outcome {s t : State} (h : execShutdown s = .next t) :
    (s.lc ≠ .active ∧ KeepsRegisters s t) ∨
      (s.lc = .active ∧ ∃ l, KeepsRegisters { s with lc := l } t ∧
        ((l = .stopped ∧ t.res = some .ok) ∨ (l = .shuttingDown ∧ t.res ≠ some .ok))) := by
  by_cases hl : s.lc = .active
  · refine .inr ⟨hl, ?_⟩
    rcases s.shutdown_cases hl with e | ⟨_, _, _, _, e | e⟩ <;> cases e.symm.trans h
    · exact ⟨_, rfl, .inl ⟨rfl, rfl⟩⟩
    · exact ⟨_, rfl, .inr ⟨rfl, nofun⟩⟩
    · exact ⟨_, rfl, .inr ⟨rfl, nofun⟩⟩
  · rw [execShutdown, State.whenLc, if_neg hl] at h
    cases h
    exact .inl ⟨hl, rfl⟩

/-- STARTUP before its flush: the splash is drawn and the whole buffer marked (R136, R137). -/
theorem State.configured_registers (s : State) : KeepsRegisters
    { s.begun with fb := (s.runCalls s.cfg.splash).fb, dw := Window.full s.cfg.geometry } s.configured := by
  have hfb := s.configured_fb
  obtain ⟨fb, e⟩ := s.configured_frame
  rw [e] at hfb ⊢
  subst hfb
  exact rfl

/-- STARTUP after its flush: DW is reset. -/
theorem State.flushed_registers (s : State) : KeepsRegisters
    { s.begun with fb := (s.runCalls s.cfg.splash).fb, dw := Window.sentinel s.cfg.geometry } s.flushed :=
  congrArg State.resetWindow s.configured_registers

/-- STARTUP is refused, or ends OK in `Active`, or has left the block in `Starting`; FB is untouched or has the splash
(R134, R143). -/
theorem execStartup_outcome {s t : State} (h : execStartup s = .next t) :
    (s.lc ≠ .uninitialized ∧ KeepsRegisters s t) ∨
      (s.lc = .uninitialized ∧ ∃ l fb dw, KeepsRegisters { s.begun with lc := l, fb := fb, dw := dw } t ∧
        (fb = s.fb ∨ fb = (s.runCalls s.cfg.splash).fb) ∧
        ((l = .active ∧ t.res = some .ok) ∨ (l = .starting ∧ t.res ≠ some .ok))) := by
  rcases s.whenLc_cases .uninitialized (fun s => s.startupBody.finish) with ⟨hl, e⟩ | ⟨hl, e⟩ <;>
    cases (congrArg Host.Outcome.next e).symm.trans h
  · exact .inl ⟨hl, rfl⟩
  · have hconf := s.configured_registers
    have hflush := s.flushed_registers
    refine .inr ⟨hl, ?_⟩
    rcases s.startupBody_cases with e | ⟨_, _, _, _, e | e⟩ | ⟨_, _, _, _, _, e | e⟩ | e | e <;> rw [e]
    · exact ⟨_, _, _, hflush.withLc .active, .inr rfl, .inl ⟨rfl, rfl⟩⟩
    · exact ⟨_, s.fb, s.dw, rfl, .inl rfl, .inr ⟨rfl, nofun⟩⟩
    · exact ⟨_, s.fb, s.dw, rfl, .inl rfl, .inr ⟨rfl, nofun⟩⟩
    · exact ⟨_, _, _, hconf, .inr rfl, .inr ⟨rfl, nofun⟩⟩
    · exact ⟨_, _, _, hconf, .inr rfl, .inr ⟨rfl, nofun⟩⟩
    · exact ⟨_, _, _, hflush, .inr rfl, .inr ⟨rfl, nofun⟩⟩
    · exact ⟨_, _, _, hflush, .inr rfl, .inr ⟨rfl, nofun⟩⟩

/-! ## Frames and the lifecycle -/

/-- Settles O50: each operation's registers are those it began with, but for the ones its outcome names. -/
theorem systemOperationFrames : Obligations.SystemOperationFrames := by
  unfold Obligations.SystemOperationFrames
  intro s t
  refine ⟨fun h => ?startup, fun h => ?display, fun h => ?shutdown, fun b h => ?mode, fun a b h => ?scroll,
    fun h => ?scrstop⟩
  case startup =>
    rcases execStartup_outcome h with ⟨_, hk⟩ | ⟨_, _, _, _, hk, hfb, _⟩
    · exact ⟨hk.cfg, hk.rot, hk.inputs, .inl hk.fb⟩
    · exact ⟨hk.cfg, hk.rot, hk.inputs, hfb.imp hk.fb.trans hk.fb.trans⟩
  case display =>
    rcases KeepsRegisters.execDisplay h with hk | hk
    · exact ⟨hk.cfg, hk.fb, hk.rot, hk.lc, hk.pcfg, hk.inputs, .inl hk.dw⟩
    · exact ⟨hk.cfg, hk.fb, hk.rot, hk.lc, hk.pcfg, hk.inputs, .inr hk.dw⟩
  case shutdown =>
    rcases execShutdown_outcome h with ⟨_, hk⟩ | ⟨_, _, hk, _⟩
    · exact ⟨hk.cfg, hk.fb, hk.dw, hk.rot, hk.pcfg, hk.inputs⟩
    · exact ⟨hk.cfg, hk.fb, hk.dw, hk.rot, hk.pcfg, hk.inputs⟩
  case mode =>
    have hk : KeepsRegisters s t := by rcases h with h | h <;> cases h <;> exact .whenLc _ (.issueWire s _)
    exact ⟨hk.sameRegisters, hk.inputs⟩
  case scroll =>
    have hk : KeepsRegisters s t := by rcases h with h | h | h | h | h <;> cases h <;> exact .startScroll s _ _ _ _ _
    exact ⟨hk.sameRegisters, hk.inputs⟩
  case scrstop =>
    rcases KeepsRegisters.execScrstop h with hk | hk
    · exact ⟨hk.cfg, hk.fb, hk.rot, hk.lc, hk.pcfg, hk.inputs, .inl hk.dw⟩
    · exact ⟨hk.cfg, hk.fb, hk.rot, hk.lc, hk.pcfg, hk.inputs, .inr hk.dw⟩

theorem State.drawRun_deliver_lc (s : State) (k : RunKind) (x y len : Int) (c : Colour) :
    (s.whenLc .active fun s => (s.drawRun k x y len c).deliver .ok).lc = s.lc := by
  rcases s.whenLc_cases .active fun s => (s.drawRun k x y len c).deliver .ok with ⟨_, e⟩ | ⟨_, e⟩ <;> rw [e]
  · exact rfl
  · obtain ⟨_, _, e'⟩ := s.drawRun_frame k x y len c
    rw [e']
    exact rfl

/-- Every instruction but STARTUP and SHUTDOWN keeps LC (R131). -/
theorem exec_lc {i : Instr} {s t : State} (h : exec i s = .next t) (hstart : i ≠ .startup) (hshut : i ≠ .shutdown) :
    t.lc = s.lc := by
  cases i
  case startup => exact absurd rfl hstart
  case shutdown => exact absurd rfl hshut
  case hrun c len y x => cases h; exact s.drawRun_deliver_lc .horizontal x y len c
  case vrun c len y x => cases h; exact s.drawRun_deliver_lc .vertical x y len c
  case setrot q => cases h; exact rfl
  case display => exact (KeepsRegisters.execDisplay h).elim (·.lc) (·.lc)
  case scrstop => exact (KeepsRegisters.execScrstop h).elim (·.lc) (·.lc)
  case endisp | invdisp => cases h; exact (KeepsRegisters.whenLc _ (.issueWire s _)).lc
  case scrl | scrr | scrdl | scrdr | scrup => cases h; exact (KeepsRegisters.startScroll s _ _ _ _ _).lc
  all_goals cases h; exact (KeepsRegisters.issueWire s _).lc

/-- The transitions that an instruction can make (R131). -/
theorem exec_lc_transitions {i : Instr} {s t : State} (h : exec i s = .next t) :
    (t.lc = s.lc ∧ (s.lc = .uninitialized → i = .startup → False) ∧ (s.lc = .active → i = .shutdown → False)) ∨
      (i = .startup ∧ s.lc = .uninitialized ∧
        ((t.lc = .active ∧ t.res = some .ok) ∨ (t.lc = .starting ∧ t.res ≠ some .ok))) ∨
      (i = .shutdown ∧ s.lc = .active ∧
        ((t.lc = .stopped ∧ t.res = some .ok) ∨ (t.lc = .shuttingDown ∧ t.res ≠ some .ok))) := by
  by_cases hstart : i = .startup
  · subst hstart
    rcases execStartup_outcome h with ⟨hl, hk⟩ | ⟨hl, l, _, _, hk, _, hr⟩
    · exact .inl ⟨hk.lc, fun h _ => hl h, nofun⟩
    · obtain rfl : t.lc = l := hk.lc
      exact .inr (.inl ⟨rfl, hl, hr⟩)
  · by_cases hshut : i = .shutdown
    · subst hshut
      rcases execShutdown_outcome h with ⟨hl, hk⟩ | ⟨hl, l, hk, hr⟩
      · exact .inl ⟨hk.lc, nofun, fun h _ => hl h⟩
      · obtain rfl : t.lc = l := hk.lc
        exact .inr (.inr ⟨rfl, hl, hr⟩)
    · exact .inl ⟨exec_lc h hstart hshut, fun _ => hstart, fun _ => hshut⟩

/-- Settles O35: the transitions of one instruction, none of them from `Stopped`, and of a step's other inputs only the
reset line reaches LC. -/
theorem lifecycleTransitions : Obligations.LifecycleTransitions := by
  unfold Obligations.LifecycleTransitions
  refine ⟨fun _ _ _ => exec_lc_transitions, fun s t h hl => ?_⟩
  rcases s.fetch_cases with ⟨_, _, e⟩ | ⟨_, e⟩ | ⟨rest, hin, _⟩ | ⟨_, _, _, _, _, _, e⟩ | ⟨_, rest, i, _, _, _, e⟩ |
    ⟨_, _, _, _, _, _, e⟩
  · rw [step, e] at h; cases h; exact .inl hl
  · rw [step, e] at h; cases h
  · exact .inr ⟨rest, hin⟩
  · rw [step, e] at h; cases h; exact .inl hl
  · rw [step, e] at h
    rcases exec_lc_transitions h with ⟨hlc, _⟩ | ⟨_, hu, _⟩ | ⟨_, ha, _⟩
    · exact .inl (hlc.trans hl)
    · cases hl.symm.trans hu
    · cases hl.symm.trans ha
  · rw [step, e] at h; cases h

/-! ## Transactions up to the failed one -/

theorem Transport.FailsAt.drop {t : Transport} {n k : Nat} (h : t.FailsAt (n + k)) : (t.drop n).FailsAt k :=
  ⟨h.1.drop, (t.answer_drop n k).trans h.2⟩

/-- The state after the transactions `ts`, number `k` of them answered `fail` and those before it `ok`. -/
def State.stoppedAt (ts : List Txn) (k : Nat) (s : State) : State :=
  (s.sent (ts.take k)).sentFailed (ts.getD k .release)

theorem emitAll_stops {ts : List Txn} {s : State} {k : Nat} (hk : k < ts.length) (h : s.transport.FailsAt k) :
    emitAll ts s = .failed (s.stoppedAt ts k) := by
  rw [emitAll_fails hk h, State.stoppedAt, List.getD_eq_getElem _ _ hk]

theorem State.issueWire_fails {s : State} {i : Instr} (h : s.transport.answer 0 = .fail) :
    s.issueWire i = (s.sentFailed (wireTxn s.cfg.wc i)).deliver .eTransport := by
  rw [State.issueWire, State.emit_eq, h, Io.finish]

/-! ## FLUSH and DISPLAY -/

/-- FLUSH of a legal window that is not empty, every transaction of the rule answered `ok` (R138). -/
theorem State.flush_sends {s : State} (hw : Window.Legal s.cfg.geometry s.dw) (he : s.dw.isEmpty = false)
    (ha : s.transport.AllOk (flushByRule s).length) :
    s.flush = .done ((s.sent (flushByRule s)).atPage 0).resetWindow := by
  rw [← flushTxns_eq_flushByRule hw he] at ha ⊢
  exact State.flush_ok he ha

/-- FLUSH whose transaction number `k` is answered `fail` stops there, at some page of its loop (R144). -/
theorem State.flush_stops {s : State} {k : Nat} (he : s.dw.isEmpty = false)
    (hk : k < (flushTxns s.cfg s.fb s.dw).length) (hf : s.transport.FailsAt k) :
    ∃ pg, s.flush = .failed ((s.stoppedAt (flushTxns s.cfg s.fb s.dw) k).atPage pg) := by
  obtain ⟨pg, e⟩ := State.flush_fails he hk hf
  refine ⟨pg, ?_⟩
  rw [e, State.stoppedAt, List.getD_eq_getElem _ _ hk]
  rfl

/-- DISPLAY in `Active` is the flush of DW (R139). -/
theorem execDisplay_of_active {s : State} (hl : s.lc = .active) (hr : s.dw.readable s.cfg.geometry = true) :
    exec .display s = .next s.flush.finish := by
  simp only [exec, Machine.execDisplay, hl, hr, State.whenLc, if_true, and_false, reduceCtorEq, if_false]

/-- Settles O39: the flush of an empty window, and that of the rule's list with every answer `ok` or number `k` `fail`. -/
theorem flushSendsTheWindow : Obligations.FlushSendsTheWindow := by
  unfold Obligations.FlushSendsTheWindow
  intro s hw
  have hempty : 0 < s.dw.x2 - s.dw.x1 + 1 → s.dw.isEmpty = false := fun h => decide_eq_false (by omega)
  refine ⟨fun h => State.flush_empty (decide_eq_true h), fun h ha => ?_, fun k h hk hf => ?_⟩
  · exact ⟨_, State.flush_sends hw (hempty h) ha, rfl, rfl, rfl⟩
  · rw [← flushTxns_eq_flushByRule hw (hempty h)] at hk ⊢
    obtain ⟨pg, e⟩ := State.flush_stops (hempty h) hk hf
    exact ⟨_, e, rfl, rfl, rfl⟩

/-- Settles O40: DISPLAY delivers OK after the flush. -/
theorem displaySendsTheDirtyWindow : Obligations.DisplaySendsTheDirtyWindow := by
  unfold Obligations.DisplaySendsTheDirtyWindow
  intro s hl hw he ha
  exact ⟨_, execDisplay_ok hl hw he ha, ended_deliver rfl, rfl, rfl, rfl, hl, rfl, rfl, rfl, rfl⟩

/-- Settles O41: an empty window is readable and flushed by nothing, and a flush that went through leaves one. -/
theorem emptyWindowSendsNothing : Obligations.EmptyWindowSendsNothing := by
  unfold Obligations.EmptyWindowSendsNothing
  refine ⟨fun s he => ⟨State.flush_empty he, fun hl => ?_⟩, fun s t h => ?_⟩
  · have hr : s.dw.readable s.cfg.geometry = true := by rw [Window.readable, he, Bool.true_or]
    refine ⟨s.deliver .ok, ?_, ended_deliver rfl, ⟨rfl, rfl, rfl⟩, ⟨rfl, rfl, rfl, rfl, rfl, rfl⟩, rfl⟩
    rw [execDisplay_of_active hl hr, State.flush_empty he, Io.finish]
  · have he : t.dw.isEmpty = true := by
      rcases State.flush_done h with ⟨he, rfl⟩ | e
      · exact he
      · rw [e, Window.sentinel_empty]
    exact ⟨he, State.flush_empty he⟩

/-- Settles O42: the flush stops at the failed transaction, and DISPLAY delivers E_TRANSPORT. -/
theorem failedFlushKeepsTheWindow : Obligations.FailedFlushKeepsTheWindow := by
  unfold Obligations.FailedFlushKeepsTheWindow
  intro s k hl hw he hk hf
  rw [← flushTxns_eq_flushByRule hw he] at hk ⊢
  obtain ⟨pg, e⟩ := State.flush_stops he hk hf
  refine ⟨((s.stoppedAt _ k).atPage pg).deliver .eTransport, ?_, ended_deliver rfl, ⟨rfl, rfl, rfl, rfl, rfl, rfl⟩, rfl,
    rfl⟩
  rw [execDisplay_of_active hl (Window.readable_of_legal hw), e, Io.finish]

/-! ## The traffic of a flush -/

/-- The payload bytes of the transactions of one kind in a piece of the trace (R145). -/
def payloadBytes (k : BitVec 2) (l : List TxnRecord) : Nat :=
  ((l.filter fun r => r.txn.kind == k).map fun r => r.txn.payload.length).sum

theorem payloadBytes_append (k : BitVec 2) (l m : List TxnRecord) :
    payloadBytes k (l ++ m) = payloadBytes k l + payloadBytes k m := by
  simp [payloadBytes]

/-- Every page adds its pair: six command bytes and a data byte a column. -/
theorem payloadBytes_pagePairs (p : Params) (m : Memory) (x1 x2 : Nat) (pages : List Nat) :
    payloadBytes 1 ((pages.flatMap (pagePair p m x1 x2)).map fun t => ⟨t, true⟩) = 6 * pages.length ∧
      payloadBytes 2 ((pages.flatMap (pagePair p m x1 x2)).map fun t => ⟨t, true⟩) =
        pages.length * (x2 + 1 - x1) := by
  induction pages with
  | nil => exact ⟨rfl, (Nat.zero_mul _).symm⟩
  | cons pg pages ih =>
    have hcmd : payloadBytes 1 ((pagePair p m x1 x2 pg).map fun t => ⟨t, true⟩) = 6 := rfl
    have hdata : payloadBytes 2 ((pagePair p m x1 x2 pg).map fun t => ⟨t, true⟩) = x2 + 1 - x1 := by
      simp [payloadBytes, pagePair, Txn.kind, Txn.payload]
    rw [List.flatMap_cons, List.map_append, payloadBytes_append, payloadBytes_append, ih.1, ih.2, hcmd, hdata,
      List.length_cons]
    constructor
    · omega
    · ring

/-- A command of a flush names one page and the columns of the window. -/
theorem command_of_mem_flushByRule {s : State} (h1 : 0 ≤ s.dw.x1) (h2 : 0 ≤ s.dw.x2) {t : Txn}
    (h : t ∈ flushByRule s) (hk : t.kind = 1) :
    ∃ p : Byte, t = .cmdseq [s.cfg.wc.pageAddr, p, p, s.cfg.wc.columnAddr, BitVec.ofInt 8 s.dw.x1,
      BitVec.ofInt 8 s.dw.x2] := by
  obtain ⟨pg, _, ht⟩ := List.mem_flatMap.mp h
  rcases List.mem_pair.mp ht with rfl | rfl
  · refine ⟨BitVec.ofNat 8 pg, ?_⟩
    rw [← BitVec.ofInt_natCast 8 s.dw.x1.toNat, ← BitVec.ofInt_natCast 8 s.dw.x2.toNat, Int.toNat_of_nonneg h1,
      Int.toNat_of_nonneg h2]
  · cases hk

/-- Settles O43: the rule's list has a pair of transactions for each page, and a flush that went through sent it. -/
theorem flushTraffic : Obligations.FlushTraffic := by
  unfold Obligations.FlushTraffic
  intro s hw he np bytes counts
  obtain ⟨hx1, hx, -, hy1, hy, -⟩ := Window.box_of_legal hw he
  have hnp : s.dw.pages.length = np := by rw [Window.pages, List.length_range']; omega
  have hlen : (flushByRule s).length = 2 * np := by
    rw [← flushTxns_eq_flushByRule hw he, flushTxns_length, hnp]
  have hbytes := payloadBytes_pagePairs s.cfg s.fb s.dw.x1.toNat s.dw.x2.toNat s.dw.pages
  rw [hnp] at hbytes
  have hcounts : ∀ t : State, t.trace = s.trace ++ (flushByRule s).map (fun x => ⟨x, true⟩) → counts t := by
    refine fun t ht => ⟨_, ht, (List.length_map _).trans hlen, fun _ => ok_of_mem_sent, hbytes.1, ?_, fun r hr hk => ?_⟩
    · refine (congrArg Nat.cast hbytes.2).trans ?_
      rw [Nat.cast_mul, show ((s.dw.x2.toNat + 1 - s.dw.x1.toNat : Nat) : Int) = s.dw.x2 - s.dw.x1 + 1 by omega]
    · obtain ⟨t, ht, rfl⟩ := List.mem_map.mp hr
      exact command_of_mem_flushByRule hx1 (hx1.trans hx) ht hk
  refine ⟨fun t h => hcounts t ?_, fun ha => ⟨⟨_, State.flush_sends hw he (hlen ▸ ha)⟩, fun hl => ?_⟩⟩
  · rcases s.flush_cases with ⟨he', _⟩ | ⟨_, e | ⟨_, _, _, _, _, e⟩ | ⟨_, _, _, _, _, e⟩⟩
    · cases he.symm.trans he'
    · cases e.symm.trans h
      rw [flushTxns_eq_flushByRule hw he]
      rfl
    · cases e.symm.trans h
    · cases e.symm.trans h
  · exact ⟨_, execDisplay_ok hl hw he (hlen ▸ ha), ended_deliver rfl, hcounts _ rfl⟩

/-! ## SHUTDOWN, ENDISP and INVDISP -/

/-- Settles O45: SHUTDOWN sends its three transactions from `ShuttingDown`, and `Stopped` follows the last. -/
theorem shutdownReleasesTheTransport : Obligations.ShutdownReleasesTheTransport := by
  unfold Obligations.ShutdownReleasesTheTransport
  intro s hl l
  have hexec : exec .shutdown s = .next ((emitAll l { s with lc := .shuttingDown }).map fun u =>
      { u with lc := .stopped }).finish := by
    rw [exec, execShutdown, State.whenLc, if_pos hl]
    rfl
  refine ⟨fun ha => ?_, fun k hk hf => ?_⟩
  · rw [hexec, emitAll_ok (ts := l) (s := { s with lc := .shuttingDown }) ha]
    exact ⟨_, rfl, ended_deliver rfl, rfl, rfl, rfl, rfl, rfl, rfl, rfl, rfl⟩
  · rw [hexec, emitAll_stops (ts := l) (s := { s with lc := .shuttingDown }) hk hf]
    exact ⟨_, rfl, ended_deliver rfl, rfl, rfl, rfl, rfl, rfl, rfl, rfl⟩

/-- Settles O46: at either operand ENDISP and INVDISP issue one wire command of one byte (R141, R142). -/
theorem panelModeCommands : Obligations.PanelModeCommands := by
  unfold Obligations.PanelModeCommands
  intro s b hl on inv
  have hon : exec (.endisp b) s = .next (s.issueWire (if b then .wDisplayOn else .wDisplayOff)) := by
    rw [exec, execEndisp, State.whenLc, if_pos hl]
  have hinv : exec (.invdisp b) s = .next (s.issueWire (if b then .wInvertDisplay else .wNormalDisplay)) := by
    rw [exec, execInvdisp, State.whenLc, if_pos hl]
  have ton : wireTxn s.cfg.wc (if b then .wDisplayOn else .wDisplayOff) = on := by cases b <;> rfl
  have tinv : wireTxn s.cfg.wc (if b then .wInvertDisplay else .wNormalDisplay) = inv := by cases b <;> rfl
  refine ⟨fun h => ?_, fun h => ?_⟩
  · rw [hon, hinv, State.issueWire_ok h, State.issueWire_ok h, ton, tinv]
    exact ⟨rfl, rfl⟩
  · rw [hon, hinv, State.issueWire_fails h, State.issueWire_fails h, ton, tinv]
    exact ⟨rfl, rfl⟩

/-! ## The panel's configuration -/

section
variable {t : PanelTable} {g : Geometry}

theorem PanelTable.lookup_128x64 (hw : g.width = 128) (hh : g.height = 64) :
    PanelTable.lookup t g = if g.extvcc then t.cell64External else ⟨t.compins64Internal, 0xCF⟩ := by
  simp [PanelTable.lookup, hw, hh]

theorem PanelTable.lookup_128x32 (hw : g.width = 128) (hh : g.height = 32) :
    PanelTable.lookup t g = ⟨if g.extvcc then t.compins32External else t.compins32Internal, 0x8F⟩ := by
  simp [PanelTable.lookup, hw, hh]

/-- The third size of the default table. -/
theorem PanelTable.lookup_96x16 (ht : t = {}) (hw : g.width = 96) (hh : g.height = 16) :
    PanelTable.lookup t g = if g.extvcc then ⟨0x02, 0x10⟩ else ⟨0x02, 0xAF⟩ := by
  simp [PanelTable.lookup, ht, hw, hh]

/-- A size of no row of the default table. -/
theorem PanelTable.lookup_other (ht : t = {}) (h : (g.width, g.height) ∉ [(128, 64), (128, 32), (96, 16)]) :
    PanelTable.lookup t g = ⟨0x02, 0x8F⟩ := by
  simp only [List.mem_cons, List.not_mem_nil, Prod.mk.injEq, or_false, not_or] at h
  obtain ⟨h64, h32, h16⟩ := h
  simp [PanelTable.lookup, ht, h64, h32, h16]

end

/-- The multiplex byte is `HEIGHT - 1`, which is not negative (R132). -/
theorem panelConfig_mux (p : Params) : (panelConfig p).mux = BitVec.ofNat 8 (p.geometry.height - 1) := by
  have h : (p.geometry.height : Int) - 1 = ((p.geometry.height - 1 : Nat) : Int) := by
    have := p.geometry.height_pos
    omega
  rw [panelConfig, byteOf, h, BitVec.ofInt_natCast]

/-- Settles O36: the cell of each size is the lookup's row, and the two bytes of the power source are the default
codes. -/
theorem panelConfigurationTable : Obligations.PanelConfigurationTable := by
  unfold Obligations.PanelConfigurationTable
  intro p
  refine ⟨fun hw hh hv => ?_, fun hw hh => ?_, fun ht hwc => ⟨panelConfig_mux p, ?_, ?_, fun hv => ?_, fun hv => ?_,
    fun hw hh => ?_, fun hw hh => ?_, fun hw hh => ?_, fun h => ?_⟩⟩
  · simp [panelConfig, PanelTable.lookup_128x64 hw hh, hv]
  · simp [panelConfig, PanelTable.lookup_128x32 hw hh]
  · simp [panelConfig, ht]
  · simp [panelConfig, ht]
  · simp [panelConfig, hwc, hv]
  · simp [panelConfig, hwc, hv]
  · cases hv : p.geometry.extvcc <;> simp [panelConfig, PanelTable.lookup_128x64 hw hh, ht, hv]
  · cases hv : p.geometry.extvcc <;> simp [panelConfig, PanelTable.lookup_128x32 hw hh, ht, hv]
  · cases hv : p.geometry.extvcc <;> simp [panelConfig, PanelTable.lookup_96x16 ht hw hh, hv]
  · simp [panelConfig, PanelTable.lookup_other ht h]

/-! ## STARTUP -/

/-- The flush of STARTUP: the whole buffer with the splash in it (R137). -/
def State.startupFlush (s : State) : List Txn :=
  flushTxns s.cfg (s.runCalls s.cfg.splash).fb (Window.full s.cfg.geometry)

theorem State.startupFlush_length (s : State) : s.startupFlush.length = 2 * s.cfg.geometry.pages :=
  flushTxns_full_length _ _

theorem State.configured_flushTxns (s : State) :
    flushTxns s.configured.cfg s.configured.fb s.configured.dw = s.startupFlush := by
  rw [s.configured_cfg, s.configured_fb, s.configured_dw, State.startupFlush]

theorem State.configured_not_empty (s : State) : s.configured.dw.isEmpty = false := by
  rw [s.configured_dw, Window.full_not_empty]

theorem State.flushed_trace (s : State) : s.flushed.trace =
    s.trace ++ (startupTxns s.cfg (panelConfig s.cfg) ++ s.startupFlush).map fun t => ⟨t, true⟩ := by
  rw [List.map_append, ← List.append_assoc, ← s.configured_trace, ← s.configured_flushTxns]
  rfl

theorem State.flushed_answer (s : State) :
    s.flushed.transport.answer 0 = s.transport.answer (16 + 2 * s.cfg.geometry.pages) := by
  have h : s.flushed.transport = s.configured.transport.drop
    (flushTxns s.configured.cfg s.configured.fb s.configured.dw).length := rfl
  rw [h, s.configured_flushTxns, s.startupFlush_length, s.configured_transport, Transport.drop_drop,
    Transport.answer_drop, Nat.add_zero]

/-- With the configuration and the flush answered `ok`, STARTUP goes on from `flushed`: display-on. -/
theorem State.startupBody_of_flushed (s : State) (h : s.transport.AllOk (16 + 2 * s.cfg.geometry.pages)) :
    s.startupBody = (s.flushed.emit (wireTxn s.cfg.wc .wDisplayOn)).map fun u => { u with lc := .active } := by
  have ha : s.configured.transport.AllOk (flushTxns s.configured.cfg s.configured.fb s.configured.dw).length := by
    rw [s.configured_flushTxns, s.startupFlush_length, s.configured_transport]
    exact h.drop
  rw [s.startupBody_of_configured (h.mono (by omega)), State.flush_ok s.configured_not_empty ha]
  exact congrArg (fun p : Params => (s.flushed.emit (wireTxn p.wc .wDisplayOn)).map fun u => { u with lc := .active })
    s.flushed_cfg

theorem exec_startup_of_uninitialized {s : State} (hl : s.lc = .uninitialized) :
    exec .startup s = .next s.startupBody.finish := by
  rw [exec, execStartup, State.whenLc, if_pos hl]

/-- The rule's list, with the splash in FB, is the three stretches that STARTUP sends (R135). -/
theorem State.startupByRule_splash (s : State) : startupByRule s.cfg (s.runCalls s.cfg.splash).fb =
    startupTxns s.cfg (panelConfig s.cfg) ++ s.startupFlush ++ [wireTxn s.cfg.wc .wDisplayOn] :=
  startupByRule_eq _ _

/-- Settles O37: the sixteen commands, the flush and display-on go through, and their trace is the rule's list. -/
theorem startupRunsTheStartupList : Obligations.StartupRunsTheStartupList := by
  unfold Obligations.StartupRunsTheStartupList
  intro s hl ha
  have hregs := s.flushed_registers
  have hlast : s.flushed.transport.answer 0 = .ok := s.flushed_answer.trans (ha _ (by omega))
  have hexec : exec .startup s =
      .next ({ s.flushed.sent [wireTxn s.cfg.wc .wDisplayOn] with lc := .active }.deliver .ok) := by
    rw [exec_startup_of_uninitialized hl, s.startupBody_of_flushed (ha.mono (by omega)), State.emit_eq, hlast]
    rfl
  refine ⟨_, hexec, ended_deliver (SentOk.flushed s).1, rfl, hregs.pcfg, hregs.fb, hregs.dw, hregs.rot, hregs.cfg,
    hregs.inputs, startupByRule_length _ _, ?_⟩
  have hfb : s.flushed.fb = (s.runCalls s.cfg.splash).fb := hregs.fb
  simp [hfb, s.flushed_trace, s.startupByRule_splash]

/-! ### A failed transaction -/

/-- A list that stops within its middle stretch, the stretch before it sent, ends the trace as the whole list does. -/
theorem State.stoppedAt_trace {s u : State} {a b : List Txn} (hu : u.trace = s.trace ++ a.map fun t => ⟨t, true⟩)
    {j : Nat} (hj : j < b.length) (c : List Txn) :
    (u.stoppedAt b j).trace = (s.stoppedAt (a ++ b ++ c) (a.length + j)).trace := by
  have htake : (a ++ b ++ c).take (a.length + j) = a ++ b.take j := by
    rw [List.append_assoc, List.take_length_add_append, List.take_append_of_le_length hj.le]
  have hget : (a ++ b ++ c).getD (a.length + j) .release = b.getD j .release := by
    rw [List.append_assoc, List.getD_append_right _ _ _ _ (by omega), Nat.add_sub_cancel_left,
      List.getD_append _ _ _ _ hj]
  simp only [State.stoppedAt, State.sentFailed_trace, State.sent_trace, htake, hget, hu]
  rw [List.map_append, ← List.append_assoc s.trace]

/-- STARTUP stopped among its sixteen commands. -/
theorem State.startupBody_stops_configuring {s : State} {k : Nat} (hk : k < 16) (hf : s.transport.FailsAt k) :
    s.startupBody = .failed (s.begun.stoppedAt (startupTxns s.cfg (panelConfig s.cfg)) k) := by
  have hb : s.startupBody = ((emitAll (startupTxns s.cfg (panelConfig s.cfg)) s.begun).bind fun u =>
    u.applySplash.markFull.flush.bind fun u => u.emit (wireTxn u.cfg.wc .wDisplayOn)).map fun u =>
      { u with lc := .active } := rfl
  rw [hb, emitAll_stops (s := s.begun) hk hf]
  rfl

/-- STARTUP stopped in its flush. -/
theorem State.startupBody_stops_flushing {s : State} {j : Nat} (hj : j < s.startupFlush.length)
    (hf : s.transport.FailsAt (16 + j)) :
    ∃ pg, s.startupBody = .failed ((s.configured.stoppedAt s.startupFlush j).atPage pg) := by
  have hconf : s.configured.transport.FailsAt j := s.configured_transport ▸ hf.drop
  rw [← s.configured_flushTxns] at hj ⊢
  obtain ⟨pg, e⟩ := State.flush_stops s.configured_not_empty hj hconf
  exact ⟨pg, by rw [s.startupBody_of_configured (hf.1.mono (by omega)), e]; rfl⟩

/-- STARTUP stopped at display-on. -/
theorem State.startupBody_stops_at_displayOn {s : State}
    (hf : s.transport.FailsAt (16 + 2 * s.cfg.geometry.pages)) :
    s.startupBody = .failed (s.flushed.stoppedAt [wireTxn s.cfg.wc .wDisplayOn] 0) := by
  rw [s.startupBody_of_flushed hf.1, State.emit_eq, s.flushed_answer, hf.2, State.stoppedAt, List.take_zero,
    State.sent_nil]
  rfl

/-- STARTUP stopped in `u` at transaction `k` ends E_TRANSPORT in `Starting` (R143). -/
theorem exec_startup_stopped {s u : State} {k : Nat} {fb : Memory} {dw : Window} (hl : s.lc = .uninitialized)
    (hbody : s.startupBody = .failed u) (hregs : KeepsRegisters { s.begun with fb := fb, dw := dw } u)
    (hres : u.results = s.results)
    (htrace : u.trace = (s.stoppedAt (startupByRule s.cfg (s.runCalls s.cfg.splash).fb) k).trace) :
    ∃ t, exec .startup s = .next t ∧ Ended .eTransport s t ∧ t.lc = .starting ∧
      t.pcfg = some (panelConfig s.cfg) ∧ t.rot = s.rot ∧ t.cfg = s.cfg ∧ t.fb = fb ∧ t.dw = dw ∧
      t.trace = (s.stoppedAt (startupByRule s.cfg (s.runCalls s.cfg.splash).fb) k).trace := by
  refine ⟨u.deliver .eTransport, ?_, ended_deliver hres, hregs.lc, hregs.pcfg, hregs.rot, hregs.cfg, hregs.fb, hregs.dw,
    htrace⟩
  rw [exec_startup_of_uninitialized hl, hbody, Io.finish]

/-- Settles O38: the failed transaction is one of the sixteen commands, of the flush, or display-on; the table of R143
has a row for each. -/
theorem startupFailure : Obligations.StartupFailure := by
  unfold Obligations.StartupFailure
  intro s k hl hk hf
  have hlen := s.startupFlush_length
  by_cases hconf : k < 16
  · rw [if_pos hconf, if_pos hconf]
    refine exec_startup_stopped hl (State.startupBody_stops_configuring hconf hf) rfl rfl ?_
    have htrace := State.stoppedAt_trace (s := s) (u := s.begun) (a := []) (List.append_nil _).symm
      (b := startupTxns s.cfg (panelConfig s.cfg)) hconf (s.startupFlush ++ [wireTxn s.cfg.wc .wDisplayOn])
    rwa [List.length_nil, Nat.zero_add, List.nil_append, ← List.append_assoc, ← s.startupByRule_splash] at htrace
  · obtain ⟨j, rfl⟩ : ∃ j, k = 16 + j := ⟨k - 16, by omega⟩
    rw [if_neg hconf, if_neg hconf]
    by_cases hflush : j < s.startupFlush.length
    · rw [if_pos (by omega)]
      obtain ⟨pg, e⟩ := State.startupBody_stops_flushing hflush hf
      refine exec_startup_stopped hl e s.configured_registers (SentOk.configured s).1 ?_
      rw [s.startupByRule_splash]
      exact State.stoppedAt_trace s.configured_trace hflush _
    · obtain rfl : j = 2 * s.cfg.geometry.pages := by omega
      rw [if_neg (by omega)]
      refine exec_startup_stopped hl (State.startupBody_stops_at_displayOn hf) s.flushed_registers (SentOk.flushed s).1 ?_
      rw [s.startupByRule_splash, ← List.append_nil (_ ++ [_])]
      refine (State.stoppedAt_trace s.flushed_trace Nat.zero_lt_one []).trans ?_
      rw [List.length_append, startupTxns_length, hlen, Nat.add_zero]

end Sys2Proof.Machine
end

section
/-! Proofs of the statements on the scroll commands (44_scroll.md): the start-scroll sequence with every transaction
answered ok and with number `k` answered fail, and SCRSTOP with either answer. -/

namespace Sys2Proof.Machine

/-! ## The start-scroll sequence -/

/-- A start-scroll in `Active` issues the rule's four transactions (44_scroll.md R158). -/
theorem State.startScroll_of_active {s : State} (hl : s.lc = .active) (d h v stop start : Byte) :
    s.startScroll d h v stop start = (emitAll (scrollByRule s.cfg d h v stop start) s).finish := by
  rw [State.startScroll, State.whenLc, if_pos hl, scrollTxns_eq_scrollByRule]

/-- A start-scroll in `Active`, its four transactions answered `ok` (R158). -/
theorem State.startScroll_ok {s : State} (hl : s.lc = .active) (ha : s.transport.AllOk 4) (d h v stop start : Byte) :
    s.startScroll d h v stop start = (s.sent (scrollByRule s.cfg d h v stop start)).deliver .ok := by
  rw [State.startScroll_of_active hl, emitAll_ok (ts := scrollByRule s.cfg d h v stop start) ha, Io.finish]

/-- A start-scroll in `Active`, transaction `k` of its four answered `fail` and those before it `ok` (R166). -/
theorem State.startScroll_stops {s : State} {k : Nat} (hl : s.lc = .active) (hk : k < 4)
    (hf : s.transport.FailsAt k) (d h v stop start : Byte) :
    s.startScroll d h v stop start = (s.stoppedAt (scrollByRule s.cfg d h v stop start) k).deliver .eTransport := by
  rw [State.startScroll_of_active hl, emitAll_stops (ts := scrollByRule s.cfg d h v stop start) hk hf, Io.finish]

/-- Settles O47: each operation is the start-scroll with its own direction code and increments (R159 to R163). -/
theorem scrollSequences : Obligations.ScrollSequences := by
  unfold Obligations.ScrollSequences
  intro s stop start hl ha run
  have hrun {i : Instr} {d h v : Byte} (hexec : exec i s = .next (s.startScroll d h v stop start)) :
      exec i s = .next (run d h v) :=
    hexec.trans (congrArg _ (State.startScroll_ok hl ha d h v stop start))
  exact ⟨hrun rfl, hrun rfl, hrun rfl, hrun rfl, hrun rfl⟩

/-- Settles O48: the start-scroll stops at the failed transaction, and traffic leaves the registers alone. -/
theorem scrollFailureChangesNothing : Obligations.ScrollFailureChangesNothing := by
  unfold Obligations.ScrollFailureChangesNothing
  intro i d h v s stop start k hl hk hf hrow
  have hexec : exec i s = .next (s.startScroll d h v stop start) := by
    simp only [List.mem_cons, List.not_mem_nil, or_false, Prod.mk.injEq] at hrow
    rcases hrow with ⟨rfl, rfl, rfl, rfl⟩ | ⟨rfl, rfl, rfl, rfl⟩ | ⟨rfl, rfl, rfl, rfl⟩ | ⟨rfl, rfl, rfl, rfl⟩ |
      ⟨rfl, rfl, rfl, rfl⟩ <;> rfl
  have hkeep : KeepsRegisters s (s.startScroll d h v stop start) := .startScroll s d h v stop start
  rw [State.startScroll_stops hl hk hf] at hexec hkeep
  exact ⟨_, hexec, ended_deliver rfl, hkeep.sameRegisters, hkeep.lc.trans hl, hkeep.inputs, rfl⟩

/-! ## SCRSTOP -/

/-- Settles O49: both branches of SCRSTOP mark the window full before the result is delivered (D24). -/
theorem scrollStopMarksTheWindowFull : Obligations.ScrollStopMarksTheWindowFull := by
  unfold Obligations.ScrollStopMarksTheWindowFull
  intro s hl
  rw [exec, execScrstop, State.whenLc, if_pos hl, State.emit_eq]
  refine ⟨fun hok => ?_, fun hfail => ?_⟩
  · rw [hok]; rfl
  · rw [hfail]; rfl

end Sys2Proof.Machine
end

section
/-! Proofs of the statements on the result codes (60_exceptions.md): which lifecycle state accepts which operation, what
E_USAGE and E_ILLEGAL leave alone, which code each host operation can end with, and the three ways a wire command
ends. -/

namespace Sys2Proof.Machine

/-! ## The lifecycle check -/

/-- An operation with a requirement is accepted in the one state it needs (R181). -/
theorem accepts_of_requires {i : Instr} {need : Lifecycle} (h : requires i = some need) (l : Lifecycle) :
    accepts i l = decide (l = need) := by
  rw [accepts, h]

theorem requires_of_not_accepts {i : Instr} {l : Lifecycle} (h : accepts i l = false) :
    ∃ need, requires i = some need ∧ l ≠ need := by
  cases hi : requires i with
  | none => rw [accepts, hi] at h; cases h
  | some need =>
    rw [accepts_of_requires hi] at h
    exact ⟨need, rfl, of_decide_eq_false h⟩

theorem State.whenLc_of_ne {s : State} {need : Lifecycle} (h : s.lc ≠ need) (body : State → State) :
    s.whenLc need body = s.deliver .eUsage :=
  if_neg h

/-- The lifecycle check is the first thing an operation does: where it fails, E_USAGE is delivered and nothing else
done, DISPLAY's check of its window included (R171, R180). -/
theorem exec_of_requires_ne {i : Instr} {s : State} {need : Lifecycle} (hi : requires i = some need)
    (hl : s.lc ≠ need) : exec i s = .next (s.deliver .eUsage) := by
  cases i <;> cases hi
  case display.refl => exact (if_neg fun h => hl h.1).trans (congrArg _ (State.whenLc_of_ne hl _))
  all_goals exact congrArg _ (State.whenLc_of_ne hl _)

/-- Settles O33, row by row: SETROT alone has no requirement. -/
theorem lifecycleTable : Obligations.LifecycleTable := by
  unfold Obligations.LifecycleTable
  intro l
  have row {i : Instr} {need : Lifecycle} (h : requires i = some need) := accepts_of_requires h l
  exact ⟨row rfl, fun _ _ _ _ => ⟨row rfl, row rfl⟩, row rfl, fun _ => ⟨row rfl, row rfl⟩,
    fun _ _ => ⟨row rfl, row rfl, row rfl, row rfl, row rfl⟩, row rfl, row rfl, fun _ => rfl⟩

/-- Settles O32: an operation that is not accepted only delivers E_USAGE. -/
theorem usageErrorChangesNothing : Obligations.UsageErrorChangesNothing := by
  unfold Obligations.UsageErrorChangesNothing
  intro i s h
  obtain ⟨need, hi, hl⟩ := requires_of_not_accepts h
  exact usageRejected_of_exec_eq (exec_of_requires_ne hi hl)

/-! ## Illegal words -/

/-- Settles O10: the fetch answers such a word, before any operation begins. -/
theorem illegalWordEndsIllegal : Obligations.IllegalWordEndsIllegal := by
  unfold Obligations.IllegalWordEndsIllegal
  exact malformedRejected

/-! ## Which operation ends with which code -/

/-- An operation that has delivered no code waits while its transaction is not answered (70_reset_and_hazards.md
R207). -/
theorem waits_sentUnanswered {s u : State} (h : u.results = s.results) (t : Txn) : Waits s (u.sentUnanswered t) :=
  ⟨rfl, nofun, rfl, h⟩

/-- Settles O34: an instruction has run in one of four ways, and a host operation that failed is no run and has a
lifecycle requirement, which SETROT has not. -/
theorem onlyTheListedCodes : Obligations.OnlyTheListedCodes := by
  unfold Obligations.OnlyTheListedCodes
  intro i s t hhost h
  cases exec_ran i s t h with
  | usage e hacc => subst e; exact .inr (.inr (.inl ⟨ended_deliver rfl, hacc⟩))
  | ok u e hsent =>
    subst e
    obtain ⟨hres, _⟩ := hsent
    exact .inr (.inl (ended_deliver hres))
  | failed u x e hsent hreq hrun =>
    subst e
    obtain ⟨v, ⟨hres, _⟩, hres', _⟩ := hsent
    obtain ⟨hnotH, hnotV⟩ := hrun
    refine .inr (.inr (.inr ⟨ended_deliver (hres'.trans hres), hnotH, hnotV, ?_⟩))
    rintro q rfl
    rcases hreq with hreq | hwire
    · exact hreq rfl
    · cases hwire
  | waits u x e hsent =>
    subst e
    obtain ⟨hres, _⟩ := hsent
    exact .inl (waits_sentUnanswered hres x)

/-! ## Wire commands on their own -/

theorem State.issueWire_unanswered {s : State} {i : Instr} (h : s.transport.answer 0 = .never) :
    s.issueWire i = s.sentUnanswered (wireTxn s.cfg.wc i) := by
  rw [State.issueWire, State.emit_eq, h, Io.finish]

/-- Settles O53: a wire command is its one transaction, which keeps the registers, and the answer decides how it
ends. -/
theorem wireCommandsKeepTheRegisters : Obligations.WireCommandsKeepTheRegisters := by
  unfold Obligations.WireCommandsKeepTheRegisters
  intro i s hwire
  have hkeep : KeepsRegisters s (s.issueWire i) := .issueWire s i
  refine ⟨s.issueWire i, exec_wire hwire s, hkeep.sameRegisters, hkeep.inputs, fun h => ?ok, fun h => ?fail,
    fun h => ?never⟩
  case ok => rw [State.issueWire_ok h]; exact ended_deliver rfl
  case fail => rw [State.issueWire_fails h]; exact ended_deliver rfl
  case never => rw [State.issueWire_unanswered h]; exact waits_sentUnanswered rfl _

end Sys2Proof.Machine
end

section
/-! Proofs of the statements on reset and hazards (70_reset_and_hazards.md): the reset line, a block that is offered
nothing or waits, the transaction that is never answered, and what STARTUP leaves in the ghost of the panel. -/

namespace Sys2Proof.Machine

/-! ## The reset line, and nothing presented -/

/-- The reset line is heard in every state (10_state.md R32). -/
theorem State.fetch_rst {s : State} {rest : List Input} (hin : s.inputs = .rst :: rest) :
    s.fetch = .reset { s.assertReset with inputs := rest } := by
  rw [State.fetch, hin]

theorem State.fetch_idle {s : State} (hr : s.opReady = true) (hin : s.inputs = []) : s.fetch = .idle := by
  rw [State.fetch, hin]
  exact if_pos hr

/-- A block that waits hears the reset line alone (R207). -/
theorem State.fetch_stuck {s : State} (hr : s.opReady = false) (hin : ∀ rest, s.inputs ≠ .rst :: rest) :
    s.fetch = .stuck := by
  rw [State.fetch]
  split
  next => rw [hr]; rfl
  next rest e => exact absurd e (hin rest)
  next => rw [hr]; rfl

/-- Settles O2: the step is `assertReset` with the input taken, and that is the reset table with the outside kept. -/
theorem resetLineResetsFromEveryState : Obligations.ResetLineResetsFromEveryState := by
  unfold Obligations.ResetLineResetsFromEveryState
  intro s rest hin
  exact ⟨{ s.assertReset with inputs := rest }, by rw [step, State.fetch_rst hin], rfl, fun i => rfl, rfl, rfl, rfl, rfl,
    rfl, rfl, rfl, rfl, rfl, rfl, rfl, ⟨rfl, rfl, rfl⟩⟩

/-- Settles O11: the fetch finds the block idle, or stuck. -/
theorem nothingPresentedNothingHappens : Obligations.NothingPresentedNothingHappens := by
  unfold Obligations.NothingPresentedNothingHappens
  exact fun s => ⟨fun hr hin => by rw [step, State.fetch_idle hr hin], fun hr hin => by rw [step, State.fetch_stuck hr hin]⟩

/-! ## The transaction that is never answered -/

theorem Transport.HangsAt.drop {t : Transport} {n k : Nat} (h : t.HangsAt (n + k)) : (t.drop n).HangsAt k :=
  ⟨h.1.drop, (t.answer_drop n k).trans h.2⟩

/-- From `s` the transactions `ts` have been answered `ok` and no result delivered, and `u` is reached. -/
structure Reaches (s : State) (ts : List Txn) (u : State) : Prop where
  results : u.results = s.results
  trace : u.trace = s.trace ++ ts.map fun t => ⟨t, true⟩
  transport : u.transport = s.transport.drop ts.length

namespace Reaches

theorem sent (s : State) (ts : List Txn) : Reaches s ts (s.sent ts) := ⟨rfl, rfl, rfl⟩

/-- A change of the block's own registers alone. -/
theorem nil {s u : State} (h1 : u.results = s.results) (h2 : u.trace = s.trace) (h3 : u.transport = s.transport) :
    Reaches s [] u :=
  ⟨h1, h2.trans (List.append_nil _).symm, h3⟩

theorem trans {s u v : State} {a b : List Txn} (hu : Reaches s a u) (hv : Reaches u b v) : Reaches s (a ++ b) v where
  results := hv.results.trans hu.results
  trace := by rw [hv.trace, hu.trace, List.map_append, List.append_assoc]
  transport := by rw [hv.transport, hu.transport, Transport.drop_drop, List.length_append]

/-- STARTUP before its flush. -/
theorem configured (s : State) : Reaches s (startupTxns s.cfg (panelConfig s.cfg)) s.configured :=
  ⟨(SentOk.configured s).1, s.configured_trace, s.configured_transport⟩

/-- STARTUP after its flush. -/
theorem flushed (s : State) : Reaches s (startupTxns s.cfg (panelConfig s.cfg) ++ s.startupFlush) s.flushed := by
  have hflush : Reaches s.configured s.startupFlush s.flushed := by
    rw [← s.configured_flushTxns]
    exact ⟨rfl, rfl, rfl⟩
  exact (configured s).trans hflush

end Reaches

/-- `r` is a stretch begun in `s` that issues `ts` first: whichever of them is never answered, those before it answered
`ok`, the stretch waits for it (R207). -/
def Stalls (ts : List Txn) (s : State) (r : Io) : Prop :=
  ∀ k < ts.length, s.transport.HangsAt k →
    ∃ u t, ts[k]? = some t ∧ r = .waiting (u.sentUnanswered t) ∧ Reaches s (ts.take k) u

namespace Stalls

variable {a b ts : List Txn} {s u : State} {r : Io}

theorem nil : Stalls [] s r := nofun

theorem emitAll (ts : List Txn) (s : State) : Stalls ts s (emitAll ts s) := fun _ hk h =>
  ⟨_, _, List.getElem?_eq_getElem hk, emitAll_hangs hk h, .sent _ _⟩

theorem emit (t : Txn) (s : State) : Stalls [t] s (s.emit t) := fun k hk h => by
  obtain rfl : k = 0 := Nat.lt_one_iff.mp hk
  exact ⟨s, t, rfl, by rw [State.emit_eq, h.2], .nil rfl rfl rfl⟩

/-- FLUSH of a window that is not empty, at whichever page. -/
theorem flush (he : s.dw.isEmpty = false) : Stalls (flushTxns s.cfg s.fb s.dw) s s.flush := fun k hk h => by
  obtain ⟨pg, e⟩ := State.flush_hangs he hk h
  exact ⟨_, _, List.getElem?_eq_getElem hk, e, ⟨rfl, rfl, rfl⟩⟩

/-- What would come after it is not reached. -/
theorem bind (h : Stalls ts s r) (f : State → Io) : Stalls ts s (r.bind f) := fun k hk hh => by
  obtain ⟨u, t, ht, rfl, hu⟩ := h k hk hh
  exact ⟨u, t, ht, rfl, hu⟩

theorem map (h : Stalls ts s r) (f : State → State) : Stalls ts s (r.map f) := fun k hk hh => by
  obtain ⟨u, t, ht, rfl, hu⟩ := h k hk hh
  exact ⟨u, t, ht, rfl, hu⟩

/-- A stretch that, once `a` is answered `ok`, is one begun in `u` that issues `b`. -/
theorem append {r' : Io} (ha : Stalls a s r) (hu : Reaches s a u) (hb : Stalls b u r')
    (hr : s.transport.AllOk a.length → r = r') : Stalls (a ++ b) s r := by
  intro k hk h
  by_cases hka : k < a.length
  · obtain ⟨v, t, ht, e, hv⟩ := ha k hka h
    exact ⟨v, t, (List.getElem?_append_left hka).trans ht, e, by rwa [List.take_append_of_le_length hka.le]⟩
  · obtain ⟨j, rfl⟩ : ∃ j, k = a.length + j := ⟨k - a.length, by omega⟩
    obtain ⟨v, t, ht, e, hv⟩ := hb j (by rw [List.length_append] at hk; omega) (hu.transport ▸ h.drop)
    refine ⟨v, t, ?_, (hr (h.1.mono (by omega))).trans e, ?_⟩
    · rw [List.getElem?_append_right (by omega), Nat.add_sub_cancel_left, ht]
    · rw [List.take_length_add_append]
      exact hu.trans hv

/-- A stretch begun in a state that differs in what was not sent. -/
theorem of_reaches_nil (hu : Reaches s [] u) (h : Stalls ts u r) : Stalls ts s r := nil.append hu h fun _ => rfl

/-- STARTUP in its three stretches: the configuration, the flush, display-on. -/
theorem startupBody (s : State) : Stalls (startupByRule s.cfg (s.runCalls s.cfg.splash).fb) s s.startupBody := by
  have hconf : Stalls (startupTxns s.cfg (panelConfig s.cfg)) s s.startupBody :=
    .of_reaches_nil (u := s.begun) (.nil rfl rfl rfl) (((emitAll _ _).bind _).map _)
  have hflush := flush s.configured_not_empty
  rw [s.configured_flushTxns] at hflush
  rw [s.startupByRule_splash]
  refine (hconf.append (.configured s) ((hflush.bind _).map _) s.startupBody_of_configured).append (.flushed s)
    ((emit _ _).map _) fun h => s.startupBody_of_flushed ?_
  rwa [List.length_append, startupTxns_length, s.startupFlush_length] at h

/-- An instruction that waits where its stretch does. -/
theorem waitsAtEach {i : Instr} (h : Stalls ts s r) (hexec : ∀ u, r = .waiting u → exec i s = .next u) :
    WaitsAtEach i s ts := by
  intro k hk hh
  obtain ⟨u, t, ht, e, hu⟩ := h k hk hh
  exact ⟨_, hexec _ e, waits_sentUnanswered hu.results t, ht.symm, hu.trace⟩

/-- An instruction that is its stretch and a result. -/
theorem waitsAtEach_finish {i : Instr} (h : Stalls ts s r) (hexec : exec i s = .next r.finish) : WaitsAtEach i s ts :=
  h.waitsAtEach fun u e => by rw [hexec, e, Io.finish]

end Stalls

/-- An instruction that issues one wire command. -/
theorem waitsAtEach_issueWire {i j : Instr} {s : State} (hexec : exec i s = .next (s.issueWire j)) :
    WaitsAtEach i s [wireTxn s.cfg.wc j] :=
  (Stalls.emit _ s).waitsAtEach_finish hexec

/-- An instruction that is a start-scroll. -/
theorem waitsAtEach_startScroll {i : Instr} {s : State} (hl : s.lc = .active) {d h v stop start : Byte}
    (hexec : exec i s = .next (s.startScroll d h v stop start)) :
    WaitsAtEach i s (scrollByRule s.cfg d h v stop start) :=
  (Stalls.emitAll _ s).waitsAtEach_finish (hexec.trans (congrArg _ (State.startScroll_of_active hl d h v stop start)))

theorem waitsAtEach_display {s : State} (hl : s.lc = .active) (he : s.dw.isEmpty = false)
    (hw : Window.Legal s.cfg.geometry s.dw) : WaitsAtEach .display s (flushByRule s) := by
  rw [← flushTxns_eq_flushByRule hw he]
  exact (Stalls.flush he).waitsAtEach_finish (execDisplay_of_active hl (Window.readable_of_legal hw))

theorem waitsAtEach_shutdown {s : State} (hl : s.lc = .active) : WaitsAtEach .shutdown s (shutdownTxns s.cfg.wc) := by
  have hsend : Stalls (shutdownTxns s.cfg.wc) s (emitAll (shutdownTxns s.cfg.wc) { s with lc := .shuttingDown }) :=
    .of_reaches_nil (u := { s with lc := .shuttingDown }) (.nil rfl rfl rfl) (.emitAll _ _)
  refine (hsend.map fun u => { u with lc := .stopped }).waitsAtEach_finish ?_
  rw [exec, execShutdown, State.whenLc, if_pos hl]

theorem waitsAtEach_scrstop {s : State} (hl : s.lc = .active) :
    WaitsAtEach .scrstop s [wireTxn s.cfg.wc .wDeactivateScroll] :=
  (Stalls.emit _ s).waitsAtEach fun u e => by rw [exec, execScrstop, State.whenLc, if_pos hl, e]

theorem waitsAtEach_endisp {s : State} (hl : s.lc = .active) (b : Bool) :
    WaitsAtEach (.endisp b) s [.cmd1 (if b then s.cfg.wc.displayOn else s.cfg.wc.displayOff)] := by
  have h := waitsAtEach_issueWire (i := .endisp b) (s := s) (j := if b then .wDisplayOn else .wDisplayOff) (by
    rw [exec, execEndisp, State.whenLc, if_pos hl])
  cases b <;> exact h

theorem waitsAtEach_invdisp {s : State} (hl : s.lc = .active) (b : Bool) :
    WaitsAtEach (.invdisp b) s [.cmd1 (if b then s.cfg.wc.invertDisplay else s.cfg.wc.normalDisplay)] := by
  have h := waitsAtEach_issueWire (i := .invdisp b) (s := s) (j := if b then .wInvertDisplay else .wNormalDisplay) (by
    rw [exec, execInvdisp, State.whenLc, if_pos hl])
  cases b <;> exact h

/-- Settles O12: each operation is a stretch of transactions that stalls at the one not answered. -/
theorem unansweredTransactionLeavesTheBlockWaiting : Obligations.UnansweredTransactionLeavesTheBlockWaiting := by
  unfold Obligations.UnansweredTransactionLeavesTheBlockWaiting
  refine fun s => ⟨fun hl => ?startup, fun hl he hw => waitsAtEach_display hl he hw, fun hl => ⟨waitsAtEach_shutdown hl,
    waitsAtEach_scrstop hl, fun b => ⟨waitsAtEach_endisp hl b, waitsAtEach_invdisp hl b⟩, fun a b => ?scroll⟩,
    fun i hi => waitsAtEach_issueWire (exec_wire hi s)⟩
  case startup => exact (Stalls.startupBody s).waitsAtEach_finish (exec_startup_of_uninitialized hl)
  case scroll =>
    exact ⟨waitsAtEach_startScroll hl rfl, waitsAtEach_startScroll hl rfl, waitsAtEach_startScroll hl rfl,
      waitsAtEach_startScroll hl rfl, waitsAtEach_startScroll hl rfl⟩

/-! ## The ghost of the panel under STARTUP -/

theorem Panel.delivered_commandTxn (wc : WireCodes) (bs : List Byte) (p : Panel) :
    p.delivered wc (commandTxn bs) = p.commands wc bs := by
  unfold commandTxn
  split <;> rfl

/-- Bytes that are one wire command are parsed as that command. -/
theorem parseCommands_of_decodeWireWord {wc : WireCodes} {bs : List Byte} {i : Instr}
    (h : decodeWireWord wc bs = .ok i) : parseCommands wc bs.length bs = some [i] := by
  unfold decodeWireWord at h
  split at h
  next j e =>
    cases h
    cases bs with
    | nil => cases e
    | cons b bs => simp [parseCommands, e]
  next => cases h
  next => cases h

/-- The transaction of a wire command has the panel take that command, where the codes tell the commands apart
(30_encoding.md R73). -/
theorem Panel.delivered_wireTxn {wc : WireCodes} (hwc : wc.Decodable) {i : Instr} (hi : i.isHost = false) (p : Panel) :
    p.delivered wc (wireTxn wc i) = p.apply wc i := by
  have hread : decode { wc := wc } (encode wc i) = .ok i := wireDecodeInvertsEncode { wc := wc } hwc i hi
  have hbytes : encode wc i = .wire (encode wc i).bytes := by cases i <;> cases hi <;> rfl
  rw [hbytes] at hread
  rw [wireTxn, Panel.delivered_commandTxn, Panel.commands, parseCommands_of_decodeWireWord hread]
  rfl

/-- The panel after the sixteen commands of STARTUP (43_sequencer.md R135). -/
def Panel.configuredBy (cfg : Params) (p : Panel) : Panel :=
  (startupCommands cfg (panelConfig cfg)).foldl (fun p i => p.apply cfg.wc i) p

theorem Panel.delivered_startupTxns {cfg : Params} (hwc : cfg.wc.Decodable) (p : Panel) :
    (startupTxns cfg (panelConfig cfg)).foldl (fun p t => p.delivered cfg.wc t) p = p.configuredBy cfg := by
  have hwire : ∀ i ∈ startupCommands cfg (panelConfig cfg), i.isHost = false := by simp [startupCommands, Instr.isHost]
  rw [startupTxns, List.foldl_map, Panel.configuredBy]
  exact List.foldl_ext _ _ _ fun q i hi => Panel.delivered_wireTxn hwc (hwire i hi) q

/-- The panel but for its memory and what addresses it. -/
def Panel.settings (p : Panel) : Panel := { p with gddram := [], pageRange := none, colRange := none, pointer := none }

theorem Panel.settings_data (wc : WireCodes) (ds : List Byte) (p : Panel) :
    (p.delivered wc (.data ds)).settings = p.settings := by
  rw [Panel.delivered, Panel.write]
  split <;> rfl

/-- A flush leaves the settings alone, whatever the pages. -/
theorem Panel.settings_flush {cfg : Params} (hwc : cfg.wc.Decodable) (m : Memory) (x1 x2 : Nat) (pages : List Nat)
    (p : Panel) : ((pages.flatMap (pagePair cfg m x1 x2)).foldl (fun p t => p.delivered cfg.wc t) p).settings =
      p.settings := by
  induction pages generalizing p with
  | nil => rfl
  | cons pg pages ih =>
    rw [List.flatMap_cons, List.foldl_append, ih, pagePair, List.foldl_cons, List.foldl_cons, List.foldl_nil,
      Panel.settings_data, Panel.delivered_address hwc]
    rfl

/-- The flush of the whole buffer in STARTUP, `m` the framebuffer (43_sequencer.md R137). -/
def fullFlush (cfg : Params) (m : Memory) : List Txn :=
  (List.range cfg.geometry.pages).flatMap (pagePair cfg m 0 (cfg.geometry.width - 1))

/-- The panel after STARTUP: configured, then written by the flush, then on. -/
theorem Panel.delivered_startupByRule {cfg : Params} (hwc : cfg.wc.Decodable) (m : Memory) (p : Panel) :
    (startupByRule cfg m).foldl (fun p t => p.delivered cfg.wc t) p =
      { (fullFlush cfg m).foldl (fun p t => p.delivered cfg.wc t) (p.configuredBy cfg) with display := some true } := by
  have hlist : startupByRule cfg m =
    startupTxns cfg (panelConfig cfg) ++ fullFlush cfg m ++ [wireTxn cfg.wc .wDisplayOn] := rfl
  rw [hlist, List.foldl_append, List.foldl_append, Panel.delivered_startupTxns hwc, List.foldl_cons, List.foldl_nil,
    Panel.delivered_wireTxn hwc rfl, Panel.apply]

/-- With horizontal addressing selected, the flush of the whole buffer leaves all of it in panel memory. -/
theorem Panel.gddram_fullFlush {cfg : Params} (hwc : cfg.wc.Decodable) (hmode : cfg.wc.memoryModeValue = 0) (m : Memory)
    (p : Panel) {pg col : Nat} (hpg : pg < cfg.geometry.pages) (hcol : col < cfg.geometry.width) :
    ((fullFlush cfg m).foldl (fun p t => p.delivered cfg.wc t) (p.configuredBy cfg)).gddram.get? (pg * 256 + col) =
      some (fbRead cfg m (pg * cfg.geometry.width + col)) := by
  have hwidth := cfg.geometry.width_legal
  have hheight := cfg.geometry.height_legal
  have hwritable : (p.configuredBy cfg).Writable := ⟨rfl, congrArg some hmode⟩
  have hpages : ∀ q ∈ List.range cfg.geometry.pages, q < 256 := fun q hq => by
    rw [List.mem_range, Geometry.pages] at hq
    omega
  rw [fullFlush, hwritable.gddram_flush hwc m (by omega) hpages (Nat.zero_le col) (by omega),
    if_pos (List.mem_range.mpr hpg)]

/-- STARTUP with every transaction answered `ok`. -/
theorem exec_startup_ok {s : State} (hl : s.lc = .uninitialized)
    (ha : s.transport.AllOk (17 + 2 * s.cfg.geometry.pages)) :
    exec .startup s = .next ({ s.flushed.sent [wireTxn s.cfg.wc .wDisplayOn] with lc := .active }.deliver .ok) := by
  have hlast : s.flushed.transport.answer 0 = .ok := s.flushed_answer.trans (ha _ (by omega))
  rw [exec_startup_of_uninitialized hl, s.startupBody_of_flushed (ha.mono (by omega)), State.emit_eq, hlast]
  rfl

theorem State.configured_panel (s : State) : s.configured.panel =
    (startupTxns s.cfg (panelConfig s.cfg)).foldl (fun p t => p.delivered s.cfg.wc t) s.panel := by
  obtain ⟨fb, e⟩ := s.configured_frame
  rw [e]
  rfl

/-- The panel has taken the whole of the rule's list. -/
theorem State.startup_panel (s : State) : (s.flushed.sent [wireTxn s.cfg.wc .wDisplayOn]).panel =
    (startupByRule s.cfg (s.runCalls s.cfg.splash).fb).foldl (fun p t => p.delivered s.cfg.wc t) s.panel := by
  have hflushed : s.flushed.panel = s.startupFlush.foldl (fun p t => p.delivered s.cfg.wc t) s.configured.panel := by
    rw [← s.configured_flushTxns, ← s.configured_cfg]
    rfl
  rw [s.startupByRule_splash, List.foldl_append, List.foldl_append, ← s.configured_panel, ← hflushed, State.sent_panel,
    s.flushed_cfg]

/-- Settles O60: the sixteen commands set the panel, the flush keeps what they set and fills the memory, and display-on
changes nothing else. -/
theorem startupConfiguresThePanel : Obligations.StartupConfiguresThePanel := by
  unfold Obligations.StartupConfiguresThePanel
  intro s hl hwc ha
  refine ⟨_, exec_startup_ok hl ha, ?_⟩
  have hpanel := s.startup_panel.trans (Panel.delivered_startupByRule hwc _ s.panel)
  have hfb : s.flushed.fb = (s.runCalls s.cfg.splash).fb := s.flushed_registers.fb
  have hkept := Panel.settings_flush hwc (s.runCalls s.cfg.splash).fb 0 (s.cfg.geometry.width - 1)
    (List.range s.cfg.geometry.pages) (s.panel.configuredBy s.cfg)
  rw [← fullFlush] at hkept
  have hset : (s.flushed.sent [wireTxn s.cfg.wc .wDisplayOn]).panel.settings =
      { (s.panel.configuredBy s.cfg).settings with display := some true } := by
    rw [hpanel, ← hkept]
    rfl
  simp only [State.deliver_panel, State.deliver_fb, State.sent_fb, hfb]
  refine ⟨congrArg Panel.display hset, congrArg Panel.inverted hset, congrArg Panel.scrolling hset,
    congrArg Panel.allOnResumed hset, congrArg Panel.segRemapped hset, congrArg Panel.comScan hset,
    congrArg Panel.clockDiv hset, congrArg Panel.multiplex hset, congrArg Panel.memoryMode hset,
    congrArg Panel.vcomDeselect hset, congrArg Panel.chargePump hset, congrArg Panel.displayOffset hset,
    congrArg Panel.startLine hset, congrArg Panel.comPins hset, congrArg Panel.contrast hset,
    congrArg Panel.precharge hset, fun hmode pg col hpg hcol => ?_⟩
  rw [hpanel]
  exact Panel.gddram_fullFlush hwc hmode _ s.panel hpg hcol

end Sys2Proof.Machine
end
